-- ==== Sys2Proof/Word.lean ====
section
/-! DEFINITION. The word type of the shared window and of the registers, and its plainest views. -/
namespace Sys2Proof

/-- A word is 32 bits (00_scope, Conventions). -/
abbrev Word := BitVec 32

/-- The smallest unit of the shared window. -/
abbrev Byte := BitVec 8

/-- The word that holds a count or an offset, modulo 2^32. -/
abbrev Word.ofNat (n : Nat) : Word := BitVec.ofNat 32 n

/-- 1 for true, 0 for false. -/
def Word.ofBool (b : Bool) : Word := if b then 1 else 0

/-- The largest value of a 32-bit count, 4,294,967,295. -/
abbrev Word.max : Word := 0xFFFFFFFF

end Sys2Proof
end

