-- ==== Sys2Proof/Syntax.lean ====
section
/-! DEFINITION. The commands the part takes: one constructor for each row of spec/opcode_table.json.
The table gives its rows no operands; the operands here are what the cited rules say the command carries
(DESIGN CHOICE, safe, log entry 2). -/
namespace Sys2Proof

/-- The answer of the bus to a read (R185); no answer at all is BUS_TIMEOUT. -/
inductive ReadAnswer
  /-- Answered: the word read. -/
  | word (w : Word)
  /-- Answered with a bus error. -/
  | error
  deriving DecidableEq, Repr

/-- The answer of the bus to a write (R185). -/
inductive WriteAnswer
  /-- Answered: the write is complete. -/
  | done
  /-- Answered with a bus error. -/
  | error
  deriving DecidableEq, Repr

/-- How a disregarded access ends (R182, R185). -/
inductive DisregardedEnd
  | answered
  | error
  | timeout
  deriving DecidableEq, Repr

/-- The registers a write to which is disregarded (R173). -/
inductive ReadOnlyRegister
  | ident
  | stat
  | faddr
  deriving DecidableEq, Repr

/-- The commands, in the order of spec/opcode_table.json. `upper` is bits 31:8 of the word written to
CMD, which ENG disregards (R164). -/
inductive Instr
  | powerOn
  | attach (upper : BitVec 24)
  | detach (upper : BitVec 24)
  | run (upper : BitVec 24)
  | stop (upper : BitVec 24)
  | attend (upper : BitVec 24)
  | pass (upper : BitVec 24)
  | clear (upper : BitVec 24)
  | engineReset (upper : BitVec 24)
  | unknownCommandCode (written : Word)
  | wbaseWrite (written : Word)
  | causeWrite (written : Word)
  | maskWrite (written : Word)
  | registerWriteDisregarded (register : ReadOnlyRegister) (written : Word)
  | passTimerExpiry
  | busTimeout
  | disregardedAccessEnd (how : DisregardedEnd)
  | attachReadAnswer (answer : ReadAnswer)
  | startStampReadAnswer (answer : ReadAnswer)
  | unconfirmedBankReadAnswer (answer : ReadAnswer)
  | holdWordReadAnswer (answer : ReadAnswer)
  | fillingHeaderWriteAnswer (answer : WriteAnswer)
  | inputReadAnswer (answer : ReadAnswer)
  | entryWriteAnswer (answer : WriteAnswer)
  | endStampReadAnswer (answer : ReadAnswer)
  | completeHeaderWriteAnswer (answer : WriteAnswer)
  | publicationWordWriteAnswer (answer : WriteAnswer)
  | releasedApplyStep
  | scanReadAnswer (answer : ReadAnswer)
  | staleRefusalWriteAnswer (answer : WriteAnswer)
  | parameterReadAnswer (answer : ReadAnswer)
  | takenWriteAnswer (answer : WriteAnswer)
  | lastTakenTicketWriteAnswer (answer : WriteAnswer)
  | configurePublicationWriteAnswer (answer : WriteAnswer)
  | imageReadAnswer (answer : ReadAnswer)
  | finishingWriteAnswer (answer : WriteAnswer)
  | abandonWriteAnswer (answer : WriteAnswer)
  | ackWordReadAnswer (answer : ReadAnswer)
  | recordWordWriteAnswer (answer : WriteAnswer)
  | highWaterWriteAnswer (answer : WriteAnswer)
  deriving DecidableEq, Repr

end Sys2Proof
end

