-- ==== Sys2Proof/Decode.lean ====
section
/-! DEFINITION. Reading a command from a word. The table gives none of its rows bits; the spec gives them to one word alone, the
word written to CMD, whose lowest eight bits hold the command code (R164, R188). -/
namespace Sys2Proof

/-- The command that a word written to CMD is: by its lowest eight bits the commands of the codes 1 to 8, and with any other code
an unknown one (R164, R188). The upper 24 bits go along, disregarded. -/
def Instr.ofCommandWord (w : Word) : Instr :=
  let upper : BitVec 24 := w.extractLsb' 8 24
  match w.toNat % 256 with
  | 1 => .attach upper
  | 2 => .detach upper
  | 3 => .run upper
  | 4 => .stop upper
  | 5 => .attend upper
  | 6 => .pass upper
  | 7 => .clear upper
  | 8 => .engineReset upper
  | _ => .unknownCommandCode w

/-- The command a word of `nbits` bits spells, its bits from `nbits` on being 0: a word of CMD, of the eight bits of the code (R188)
up to the whole word, spells the command it is when written to CMD (R164). No other width is a word of CMD: DESIGN CHOICE, log
entry 12. -/
def decodeTableWord (nbits w : Nat) : Option Instr :=
  if 8 ≤ nbits ∧ nbits ≤ 32 then some (.ofCommandWord (BitVec.ofNat 32 (w % 2 ^ nbits))) else none

end Sys2Proof
end

