-- ==== Sys2Proof/Config.lean ====
section
/-! DEFINITION. The fixed sizes of the part, and the values the spec leaves open: opaque constants,
so that no proof can rest on a choice of them. -/
namespace Sys2Proof.Config

/-- Blocks of the breakpoint pool (R28). -/
abbrev poolBlocks : Nat := 96
/-- Pairs one breakpoint block has room for (R28). -/
abbrev pairsPerBlock : Nat := 16
/-- Events the recorder's queue holds (R131). -/
abbrev queueCapacity : Nat := 64
/-- Bytes of the control block (00_scope; R160). -/
abbrev controlBlockBytes : Nat := 1088
/-- Bytes of one output bank (R116). -/
abbrev bankBytes : Nat := 2064
/-- Bytes of the bank area (R116). -/
abbrev bankAreaBytes : Nat := 6192
/-- The greatest window length an attach accepts (R167). -/
abbrev maxWindowBytes : Nat := 16777216
/-- The signature of a control block header (R167, R189). -/
abbrev headerSignature : Word := 0x4B435242
/-- The signature of a curve image (R36, R191). -/
abbrev imageSignature : Nat := 0x4356

/-- FREE VALUE (R185: "The old word or the new one stands there"). Whether the n-th failed write landed
in the window. DESIGN CHOICE, log entry 5. -/
opaque failedWriteLands : Nat → Bool

/-- FREE VALUE (R132: "Events handed together by two blocks join in either order"). Before how many of the
owner's events PSE's event of the same step joins the queue, at the n-th such step. Log entry 6. -/
opaque eventPlace : Nat → Nat

/-- FREE VALUE (R186: "Two clients can issue accesses to an idle BIP together. Either may be taken
first."). Whether EVR's access is taken before RQH's, the n-th time. Log entry 7. -/
opaque evrTakenFirst : Nat → Bool

/-- FREE VALUE (R7, R16: inverse rules are stated for invertible bodies alone). The result of an inverse
evaluation of a body that is not invertible, from the body's words and the input. Log entry 8. -/
opaque nonInvertibleResult : List Word → Word → Word

/-- FREE VALUE. The quality of that result, modulo 3. Log entry 8. -/
opaque nonInvertibleQuality : List Word → Word → Nat

end Sys2Proof.Config
end

