-- ==== Sys2Proof/Machine/State.lean ====
section
/-! DEFINITION. The state of the part, block by block, as plain data, and its value after power-on.
Counts kept by software-visible 32-bit words are words; sizes, offsets and indices are numbers. -/
namespace Sys2Proof.Machine

/-! ### Bus initiator port (R182) -/

/-- The three clients of BIP, in the order of the grant cycle (R186). -/
inductive Client
  | rqh
  | pse
  | evr
  deriving DecidableEq, Repr

/-- For whom an access is made: a client, or ENG for the reads of an attach (R166). -/
inductive Owner
  | eng
  | client (c : Client)
  deriving DecidableEq, Repr

/-- Read, or write with the word to be written (R182). `writeState` is the write of a COMPLETE header's state word, which goes
last (R121) and which a failure leaves unwritten, the bank FILLING (R129). -/
inductive AccessOp
  | read
  | write (w : Word)
  | writeState (w : Word)
  deriving DecidableEq, Repr

/-- One single-word access of the shared window (R182, R183); `offset` is its window offset. -/
structure Access where
  owner : Owner
  offset : Nat
  op : AccessOp
  deriving DecidableEq, Repr

/-- BIP's state (R182). `waitEng` is an attach read that waits for an earlier access to end (R186). `base` is the
WBASE the access in flight was put on the bus with: its local bus address is `base` plus its offset (R183), and stays so
when a later DETACH lets WBASE change while the access is still on the bus (R174, R187). -/
structure Bip where
  inFlight : Option Access
  base : Word
  waitEng : Option Access
  waitRqh : Option Access
  waitPse : Option Access
  waitEvr : Option Access
  lastGranted : Client
  disregard : Bool
  deriving DecidableEq, Repr

/-! ### Engine controller (R163) -/

/-- The engine state, in the order of the codes STAT shows (R163). -/
inductive EngineState
  | detached
  | attaching
  | idle
  | running
  | stopping
  | faulted
  deriving DecidableEq, Repr

/-- The kind of a fault record that is not clear (R175, R185). -/
inductive FaultKind
  | busError
  | timeout
  deriving DecidableEq, Repr

/-- The fault record when it is not clear (R163, R178); FADDR reads `offset`. -/
structure FaultRecord where
  kind : FaultKind
  client : Client
  offset : Nat
  deriving DecidableEq, Repr

/-- Why the last ATTACH failed (R163, R167). -/
inductive AttachReason
  | none
  | signature
  | version
  | length
  | busError
  deriving DecidableEq, Repr

/-- The trigger mode of a configuration (chapter 5.2). -/
inductive TriggerMode
  | timer
  | command
  | both
  deriving DecidableEq, Repr

/-- The stored configuration (R160, R161). Offsets are window offsets in bytes; `period` counts 100 µs. -/
structure Configuration where
  inputOffset : Nat
  inputCount : Nat
  bankOffset : Nat
  stripOffset : Nat
  stripCapacity : Nat
  period : Nat
  mode : TriggerMode
  deriving DecidableEq, Repr

/-- ENG's state (R163). `cause` and `mask` have the bit positions of R188. `attachWords` are the header
words an attach in progress has read so far (R166). -/
structure Eng where
  engine : EngineState
  faultEntry : Bool
  wbase : Word
  windowLength : Option Nat
  config : Option Configuration
  cause : BitVec 5
  mask : BitVec 5
  faultRecord : Option FaultRecord
  secondFault : Bool
  lastRefusal : BitVec 8
  attachReason : AttachReason
  attachWords : List Word
  deriving DecidableEq, Repr

/-! ### Curve library (R25 to R31) -/

/-- One breakpoint pair (R17). -/
structure Pair where
  x : Word
  y : Word
  deriving DecidableEq, Repr

/-- A body's kind, attribute and parameters (R6). Signed parameters are words in two's complement; the
scale `m` of ROOT is unsigned (R14). A SEGMENTED body has a first pair and the pairs after it (R17). -/
inductive CurveShape
  | linear2 (xLo xHi yLo yHi : Word) (clamp : Bool)
  | ratio (a b : Word) (c : Word)
  | root (x0 c m y0 : Word)
  | segmented (first : Pair) (rest : List Pair)
  deriving DecidableEq, Repr

/-- A body: its shape, its invertible flag (R7) and the breakpoint blocks it holds (R28), in the order in
which its pairs are placed in them. -/
structure Body where
  shape : CurveShape
  invertible : Bool
  blocks : List (Fin Config.poolBlocks)
  deriving DecidableEq, Repr

/-- A curve slot (R25): EMPTY when `body` is absent, LIVE when it is present. -/
structure CurveSlot where
  body : Option Body
  forwardCount : Nat
  inverseCount : Nat
  deriving DecidableEq, Repr

/-- The body under construction (R30): its target slot, where its image lies, the construction buffer,
and the body itself once reservation has been made. -/
structure Building where
  target : Fin 64
  offset : Nat
  length : Nat
  buffer : List Word
  body : Option Body
  deriving DecidableEq, Repr

/-- CLB's state: the slots, the free blocks of the pool, the body under construction (R25, R28, R30). -/
structure Clb where
  slots : Vector CurveSlot 64
  free : List (Fin Config.poolBlocks)
  building : Option Building
  deriving DecidableEq, Repr

/-! ### Point table (R48 to R52) -/

/-- Raw formats (R49). -/
inductive RawFormat
  | s16
  | u16
  | s32
  deriving DecidableEq, Repr

/-- Aggregate functions (R50). -/
inductive AggregateFn
  | mean
  | sum
  | min
  | max
  deriving DecidableEq, Repr

/-- A point's source (R49, R50). -/
inductive Source
  | raw (index : Nat) (format : RawFormat) (lo hi : Word)
  | aggregate (first count : Nat) (fn : AggregateFn)
  deriving DecidableEq, Repr

/-- Direction of a curve evaluation (R1). -/
inductive Direction
  | forward
  | inverse
  deriving DecidableEq, Repr

/-- The definition of an ACTIVE point (R48); an absent curve or zone set is 255, "none". -/
structure PointDef where
  source : Source
  curve : Option (Fin 64)
  direction : Direction
  zoneSet : Option (Fin 64)
  window : Nat
  deriving DecidableEq, Repr

/-- Last usability (R52). -/
inductive Usability
  | notYet
  | usable
  | unusable
  deriving DecidableEq, Repr

/-- A point: UNUSED when `definition` is absent, ACTIVE when it is present (R48), and its working state
(R52), the history oldest value first. -/
structure Point where
  definition : Option PointDef
  history : List Word
  lastOutput : Word
  usability : Usability
  deriving DecidableEq, Repr

/-- PTB's state. -/
structure Ptb where
  points : Vector Point 256
  deriving DecidableEq, Repr

/-- Quality codes, in the order of their codes (chapter 3.3). -/
inductive Quality
  | unused
  | good
  | clamped
  | cutoff
  | badRaw
  | noCurve
  | noSource
  deriving DecidableEq, Repr

/-! ### Zone supervisor (R73, R78) -/

/-- A zone set (R73). -/
structure ZoneSet where
  written : Bool
  lower : Word
  upper : Word
  hysteresis : Word
  dwell : Nat
  latch : Bool
  deriving DecidableEq, Repr

/-- Zone states, in the order of their codes; the pending count is present in the two PENDING states
and absent in the others (R78). -/
inductive ZoneState
  | none
  | unknown
  | inside
  | highPending (count : Nat)
  | high
  | highHeld
  | lowPending (count : Nat)
  | low
  | lowHeld
  deriving DecidableEq, Repr

/-- What ZSV keeps for a point: zone state, pending count, acknowledged mark (R78). -/
structure PointZone where
  state : ZoneState
  acked : Bool
  deriving DecidableEq, Repr

/-- ZSV's state. -/
structure Zsv where
  sets : Vector ZoneSet 64
  zones : Vector PointZone 256
  deriving DecidableEq, Repr

/-! ### Pass engine (R93, R122) -/

/-- Where a pass stands: the access whose answer takes it on (chapter 5.4). `entryValue` and `entryQuality`
carry the two words of the entry being written (R118). -/
inductive PassStage
  | startStamp
  | unconfirmedRead
  | holdRead
  | fillingHeader (k : Fin 4)
  | inputRead (i : Fin 256)
  | entryValue (i : Fin 256) (value qualityZone : Word)
  | entryQuality (i : Fin 256) (value qualityZone : Word)
  | endStamp
  | completeHeader (k : Fin 4)
  | publicationWrite
  deriving DecidableEq, Repr

/-- PSE's state (R93, R122, R113). `pass` is absent in NO_PASS and present in IN_PASS; the published
bank is the newest of `bankOrder` and is computed from it. -/
structure Pse where
  pass : Option PassStage
  passNumber : Word
  pendingTrigger : Bool
  overrunCount : Word
  skipFlag : Bool
  timer : Option Nat
  startStamp : Word
  inputChanged : Bool
  activeCount : Nat
  runningCheck : BitVec 16
  workBank : Fin 3
  bankOrder : List (Fin 3)
  unconfirmed : Option (Fin 3 × Word)
  published : Word
  skipped : Word
  overruns : Word
  deriving DecidableEq, Repr

/-! ### Event recorder (R131) -/

/-- Event kinds, in the order of their codes (R133). -/
inductive EventKind
  | highEnter
  | highLeave
  | lowEnter
  | lowLeave
  | pointBad
  | pointGood
  | curveInstalled
  | overrun
  | inputBusy
  | lost
  deriving DecidableEq, Repr

/-- What a block hands to EVR (R132): everything of a record but its sequence number. -/
structure Event where
  kind : EventKind
  point : Byte
  value : Word
  aux : BitVec 16
  passNumber : Word
  deriving DecidableEq, Repr

/-- EVR's work. `readingAck lostFirst e`: the acknowledge word read is outstanding for event `e`, taken
from the queue, or for the LOST record that goes before it. `writing seq e k behind`: write `k` of the
record of `e` is outstanding (words 1, 2, 3, 0, then the high-water word, R135); `behind` is the event
that waits behind a LOST record (R139). -/
inductive EvrWork
  | idle
  | readingAck (lostFirst : Bool) (e : Event)
  | writing (seq : Word) (e : Event) (k : Fin 5) (behind : Option Event)
  deriving DecidableEq, Repr

/-- EVR's state (R131, R138). -/
structure Evr where
  w : Word
  a : Word
  pendingDropped : Word
  ackInvalid : Bool
  queue : List Event
  work : EvrWork
  dropped : Word
  deriving DecidableEq, Repr

/-! ### Request handler (R145) -/

/-- Result codes, in the order of their numbers (chapter 8.5). -/
inductive ResultCode
  | ok
  | badKind
  | badParam
  | wrongState
  | noRoom
  | inUse
  | notInvertible
  | bindingConflict
  | checkFailed
  | malformed
  | outOfWindow
  | busError
  | aborted
  | staleTicket
  deriving DecidableEq, Repr

/-- The points an ACK_ZONE names (R86, R87). -/
inductive AckTarget
  | point (i : Fin 256)
  | zoneSet (z : Fin 64)
  deriving DecidableEq, Repr

/-- A change of the tables that waits for the between-passes point (R151, R152), with the checked
parameters it carries. The body of an installation is the body under construction. -/
inductive Edit
  | install (c : Fin 64)
  | delete (c : Fin 64)
  | setZones (z : Fin 64) (contents : ZoneSet)
  | setPoint (i : Fin 256) (d : PointDef)
  | clearPoint (i : Fin 256)
  | ackZone (t : AckTarget)
  deriving DecidableEq, Repr

/-- The stage a held request has reached (R145, R149 to R156). -/
inductive HeldStage
  /-- Taken; the write of header word 10 is outstanding (R149). -/
  | taken
  /-- CONFIGURE: its publication word write is outstanding (R161). -/
  | configureWrite (new : Configuration) (hadConfig : Bool) (oldPass : Word)
  /-- LOAD_CURVE: an image read is outstanding (R34). -/
  | imageRead
  /-- The deferred-apply flag is set; `released` after an end of pass released the edit (R107, R152). -/
  | awaitApply (edit : Edit) (released : Bool)
  /-- Finishing write `k` is outstanding: word 9, words 10 to 15, word 0 (R153). -/
  | finishing (code : ResultCode) (results : Vector Word 6) (k : Fin 8)
  /-- The abandon-write is outstanding at word 9, or at word 0 (R156). -/
  | abandonWrite (word0 : Bool)
  deriving DecidableEq, Repr

/-- The held request: RQH's copy of the slot (R145, R149). -/
structure Held where
  slot : Fin 16
  kind : Byte
  ticket : BitVec 16
  params : Vector Word 8
  stage : HeldStage
  deriving DecidableEq, Repr

/-- Where a scan or a take stands (R148, R149). `heads` are the slots' word 0 as this scan has read them. -/
inductive ScanStage
  /-- The read of slot `k`'s word 0 is outstanding. -/
  | reading (k : Fin 16) (heads : Vector Word 16)
  /-- Write `k` of the stale refusal of `slot` is outstanding: words 9 to 15, then word 0. -/
  | staleWrite (heads : Vector Word 16) (slot : Fin 16) (k : Fin 8)
  /-- The read of parameter word `k + 1` is outstanding. -/
  | paramRead (slot : Fin 16) (head : Word) (k : Fin 8) (params : Vector Word 8)
  /-- The TAKEN write is outstanding. -/
  | takenWrite (slot : Fin 16) (head : Word) (params : Vector Word 8)
  /-- The write of header word 10 is outstanding; the request is held. -/
  | ticketWrite
  deriving DecidableEq, Repr

/-- RQH's state (R145). The deferred-apply flag is computed from the held request's stage. -/
structure Rqh where
  expectedTicket : BitVec 16
  held : Option Held
  scan : Option ScanStage
  scanRequested : Bool
  waitingForTicket : Bool
  effectTaken : Bool
  refused : Word
  deriving DecidableEq, Repr

/-! ### The whole part -/

/-- The bytes of the shared window, by local bus address, strictly rising: what the part last wrote or
read there. An address not listed has no known value (log entry 4). -/
abbrev Memory := List Host.Cell

/-- The part's state, the shared window as the part has written and read it, the counter the free values are drawn
by (the model's own), and the queue of commands that wait. -/
structure State where
  eng : Eng
  rqh : Rqh
  clb : Clb
  ptb : Ptb
  zsv : Zsv
  pse : Pse
  evr : Evr
  bip : Bip
  window : Memory
  freeIndex : Nat
  pending : List Instr
  deriving DecidableEq, Repr

/-- The reasons the model could stop with a fault: none. No rule of the spec stops the part; FAULTED is an
engine state, from which CLEAR and ENGINE_RESET lead (R178, R170). Safe: no meaning raises one. -/
inductive Fault
  deriving DecidableEq, Repr

/-- The reasons a command could be turned away by the model. -/
inductive Refusal
  /-- Raised by an arm of `exec` whose command has no meaning yet; no arm does. Safe. -/
  | notModelled (mnemonic : String)
  deriving DecidableEq, Repr

/-! ### Power-on values -/

/-- R181. `attachWords` is the model's own (log entry 13). -/
def Eng.powerOn : Eng where
  engine := .detached
  faultEntry := false
  wbase := 0
  windowLength := none
  config := none
  cause := 0
  mask := 0
  faultRecord := none
  secondFault := false
  lastRefusal := 0
  attachReason := .none
  attachWords := []

/-- R157. -/
def Rqh.powerOn : Rqh where
  expectedTicket := 0
  held := none
  scan := none
  scanRequested := false
  waitingForTicket := false
  effectTaken := false
  refused := 0

/-- R45. -/
def CurveSlot.empty : CurveSlot where
  body := none
  forwardCount := 0
  inverseCount := 0

/-- R45. -/
def Clb.powerOn : Clb where
  slots := Vector.replicate 64 CurveSlot.empty
  free := List.finRange Config.poolBlocks
  building := none

/-- R70: UNUSED, with an UNUSED point's working state (R52). -/
def Point.unused : Point where
  definition := none
  history := []
  lastOutput := 0
  usability := .notYet

/-- R70. -/
def Ptb.powerOn : Ptb where
  points := Vector.replicate 256 Point.unused

/-- R73: an unwritten zone set. -/
def ZoneSet.unwritten : ZoneSet where
  written := false
  lower := 0
  upper := 0
  hysteresis := 0
  dwell := 1
  latch := false

/-- R90: NONE, mark clear. -/
def PointZone.unsupervised : PointZone where
  state := .none
  acked := false

/-- R90. -/
def Zsv.powerOn : Zsv where
  sets := Vector.replicate 64 ZoneSet.unwritten
  zones := Vector.replicate 256 PointZone.unsupervised

/-- R115, R130, R113. `startStamp` and `workBank` are DESIGN CHOICE 0; that "cleared" is 0 for the running
check word is DEDUCED (log entry 13). -/
def Pse.powerOn : Pse where
  pass := none
  passNumber := 0
  pendingTrigger := false
  overrunCount := 0
  skipFlag := false
  timer := none
  startStamp := 0
  inputChanged := false
  activeCount := 0
  runningCheck := 0
  workBank := 0
  bankOrder := []
  unconfirmed := none
  published := 0
  skipped := 0
  overruns := 0

/-- R143. -/
def Evr.powerOn : Evr where
  w := 0
  a := 0
  pendingDropped := 0
  ackInvalid := false
  queue := []
  work := .idle
  dropped := 0

/-- R182. `base` and `waitEng` are the model's own (log entry 13). -/
def Bip.powerOn : Bip where
  inFlight := none
  base := 0
  waitEng := none
  waitRqh := none
  waitPse := none
  waitEvr := none
  lastGranted := .evr
  disregard := false

/-- The part right after power-on (R181 and the block rules above), nothing seen of the window, the queue of
commands empty. `freeIndex` starts at 0: DESIGN CHOICE, the model's own (log entry 5). -/
def State.reset : State where
  eng := .powerOn
  rqh := .powerOn
  clb := .powerOn
  ptb := .powerOn
  zsv := .powerOn
  pse := .powerOn
  evr := .powerOn
  bip := .powerOn
  window := []
  freeIndex := 0
  pending := []

end Sys2Proof.Machine
end

