-- ==== Sys2Proof/Machine/Memory.lean ====
section
/-! DEFINITION. The shared window as a canonical list of (local bus address, byte) pairs, and its
little-endian words (R183). -/
namespace Sys2Proof.Machine

/-- The byte at an address; absent where the part has neither written nor read. -/
def Memory.readByte : Memory → Nat → Option Byte
  | [], _ => none
  | (c, d) :: m, a => if a = c then some d else Memory.readByte m a

/-- Place a byte, keeping the addresses strictly rising. -/
def Memory.writeByte : Memory → Nat → Byte → Memory
  | [], a, b => [(a, b)]
  | (c, d) :: m, a, b =>
    if a < c then (a, b) :: (c, d) :: m
    else if a = c then (a, b) :: m
    else (c, d) :: Memory.writeByte m a b

/-- The canonical form: addresses strictly rising. An unlisted address has no value, so no entry equals what an
unlisted address reads as. -/
def Memory.wf : Memory → Bool
  | [] => true
  | [_] => true
  | (a, _) :: (c, d) :: m => decide (a < c) && Memory.wf ((c, d) :: m)

/-- Byte `k` of a word: bits 8k + 7 to 8k (R183). -/
def byteOf (w : Word) (k : Nat) : Byte := w.extractLsb' (8 * k) 8

/-- A write places the whole word, byte k at address + k (R183). -/
def Memory.writeWord (m : Memory) (a : Nat) (w : Word) : Memory :=
  Memory.writeByte (Memory.writeByte (Memory.writeByte (Memory.writeByte m a (byteOf w 0))
    (a + 1) (byteOf w 1)) (a + 2) (byteOf w 2)) (a + 3) (byteOf w 3)

/-- The word at an address, where all four bytes are known (R183). -/
def Memory.readWord (m : Memory) (a : Nat) : Option Word :=
  match Memory.readByte m a, Memory.readByte m (a + 1), Memory.readByte m (a + 2),
    Memory.readByte m (a + 3) with
  | some b0, some b1, some b2, some b3 => some (b3 ++ b2 ++ b1 ++ b0)
  | _, _, _, _ => none

end Sys2Proof.Machine
end

