-- ==== Sys2Proof/Machine/CheckWord.lean ====
section
/-! DEFINITION. The check word (R193; 00_scope, Conventions). -/
namespace Sys2Proof.Machine

/-- One of the eight shifts (R193 step 3). -/
def checkShift (r : BitVec 16) : BitVec 16 :=
  if r.msb then (r <<< 1) ^^^ 0x1021 else r <<< 1

/-- One byte: combined into the high eight bits, then eight shifts (R193 steps 2 and 3). -/
def checkByte (r : BitVec 16) (b : Byte) : BitVec 16 :=
  checkShift (checkShift (checkShift (checkShift (checkShift (checkShift (checkShift (checkShift
    (r ^^^ (b ++ (0 : Byte))))))))))

/-- A run of bytes in address order. -/
def checkBytes (r : BitVec 16) (bytes : List Byte) : BitVec 16 := bytes.foldl checkByte r

/-- A word's four bytes, low byte first (R193). -/
def checkWord (r : BitVec 16) (w : Word) : BitVec 16 :=
  checkBytes r [byteOf w 0, byteOf w 1, byteOf w 2, byteOf w 3]

/-- The register's initial value (R193 step 1). -/
def checkInitial : BitVec 16 := 0xFFFF

/-- The check word of a run of words. -/
def checkOfWords (ws : List Word) : BitVec 16 := ws.foldl checkWord checkInitial

end Sys2Proof.Machine
end

