-- ==== Sys2Proof/Machine/Operands.lean ====
section
/-! DEFINITION. Codes, bit fields and offsets of the formats the part reads and writes (chapter 10):
header words, request slots, banks, event records, and the raw formats of input words. -/
namespace Sys2Proof.Machine

/-! ### Codes -/

/-- R163. -/
def EngineState.code : EngineState → Nat
  | .detached => 0 | .attaching => 1 | .idle => 2 | .running => 3 | .stopping => 4 | .faulted => 5

/-- R175. -/
def FaultKind.code : FaultKind → Nat
  | .busError => 1 | .timeout => 2

/-- The fault client codes of STAT (R175). -/
def Client.code : Client → Nat
  | .pse => 1 | .evr => 2 | .rqh => 3

/-- R163. -/
def AttachReason.code : AttachReason → Nat
  | .none => 0 | .signature => 1 | .version => 2 | .length => 3 | .busError => 4

/-- R6. -/
def CurveShape.kindCode : CurveShape → Nat
  | .linear2 .. => 1 | .ratio .. => 2 | .root .. => 3 | .segmented .. => 4

/-- Chapter 3.3. -/
def Quality.code : Quality → Nat
  | .unused => 0 | .good => 1 | .clamped => 2 | .cutoff => 3 | .badRaw => 4 | .noCurve => 5 | .noSource => 6

/-- Codes 1 to 3 are usable (chapter 3.3). -/
def Quality.isUsable : Quality → Bool
  | .good | .clamped | .cutoff => true
  | .unused | .badRaw | .noCurve | .noSource => false

/-- R78. -/
def ZoneState.code : ZoneState → Nat
  | .none => 0 | .unknown => 1 | .inside => 2 | .highPending _ => 3 | .high => 4 | .highHeld => 5
  | .lowPending _ => 6 | .low => 7 | .lowHeld => 8

/-- R133. -/
def EventKind.code : EventKind → Nat
  | .highEnter => 1 | .highLeave => 2 | .lowEnter => 3 | .lowLeave => 4 | .pointBad => 5 | .pointGood => 6
  | .curveInstalled => 7 | .overrun => 8 | .inputBusy => 9 | .lost => 10

/-- Chapter 8.5. -/
def ResultCode.code : ResultCode → Nat
  | .ok => 0 | .badKind => 1 | .badParam => 2 | .wrongState => 3 | .noRoom => 4 | .inUse => 5
  | .notInvertible => 6 | .bindingConflict => 7 | .checkFailed => 8 | .malformed => 9
  | .outOfWindow => 10 | .busError => 11 | .aborted => 12 | .staleTicket => 13

/-! ### Header words (R189) -/

/-- Window offset of the hold word. -/
abbrev holdOffset : Nat := 16
/-- Window offset of the acknowledge word. -/
abbrev ackOffset : Nat := 20
/-- Window offset of the input stamp. -/
abbrev stampOffset : Nat := 24
/-- Window offset of the publication word. -/
abbrev publicationOffset : Nat := 28
/-- Window offset of the high-water word. -/
abbrev highWaterOffset : Nat := 36
/-- Window offset of the last taken ticket. -/
abbrev lastTicketOffset : Nat := 40

/-- The publication word of a bank (3 for NONE) and a pass number modulo 2^30 (R126). -/
def publicationWord (bank : Nat) (passNumber : Word) : Word :=
  Word.ofNat (passNumber.toNat % 2 ^ 30 * 4 + bank)

/-- The bank a publication or hold word names: 0 to 2, or none for 3 (R123, R126). -/
def namedBank (w : Word) : Option (Fin 3) :=
  match w.toNat % 4 with
  | 0 => some 0
  | 1 => some 1
  | 2 => some 2
  | _ => none

/-- The pass field of a publication word (R126). -/
def publicationPass (w : Word) : Nat := w.toNat / 4

/-! ### Request slots (R144, R190) -/

/-- The slot states (R144). -/
inductive SlotState
  | free
  | posted
  | taken
  | done
  | refused
  deriving DecidableEq, Repr

/-- R144. -/
def SlotState.code : SlotState → Byte
  | .free => 0 | .posted => 1 | .taken => 2 | .done => 3 | .refused => 4

/-- Window offset of word `j` of slot `b` (R190). -/
def slotOffset (b : Fin 16) (j : Nat) : Nat := 64 + 64 * b.val + 4 * j

/-- The state field of a slot's word 0. -/
def headState (head : Word) : Byte := head.extractLsb' 0 8
/-- The kind field of a slot's word 0. -/
def headKind (head : Word) : Byte := head.extractLsb' 8 8
/-- The ticket field of a slot's word 0. -/
def headTicket (head : Word) : BitVec 16 := head.extractLsb' 16 16

/-- A slot's word 0 from its fields (R190). -/
def headWord (ticket : BitVec 16) (kind : Byte) (st : SlotState) : Word := ticket ++ kind ++ st.code

/-- RQH acts on a slot whose state reads POSTED, and on no other (R144). -/
def isPosted (head : Word) : Bool := headState head == SlotState.posted.code

/-- The class of a ticket (R146). -/
inductive TicketClass
  | candidate
  | stale
  | ahead
  deriving DecidableEq, Repr

/-- R146, with d = (e − t) mod 65,536. -/
def ticketClass (expected ticket : BitVec 16) : TicketClass :=
  let d := (expected - ticket).toNat
  if d = 0 then .candidate else if d ≤ 32768 then .stale else .ahead

/-- Which slot word the write `k` of a finishing or of a stale refusal goes to: words 9 to 15 in order, word 0
last (R148, R153). -/
def finishingWordIndex (k : Fin 8) : Nat := if k.val = 7 then 0 else 9 + k.val

/-- Six result words, 0 in each word the list does not name (R153). -/
def resultWords (l : List Word) : Vector Word 6 :=
  #v[l.getD 0 0, l.getD 1 0, l.getD 2 0, l.getD 3 0, l.getD 4 0, l.getD 5 0]

/-- Parameter word `n` of a request, `n` from 1 to 8 (R190). -/
def Held.param (h : Held) (n : Fin 8) : Word := h.params[n]

/-! ### Banks and event records (R116, R192) -/

/-- Window offset of word `j` of bank `b`. -/
def Configuration.bankWord (c : Configuration) (b : Fin 3) (j : Nat) : Nat :=
  c.bankOffset + Config.bankBytes * b.val + 4 * j

/-- The header's first word: state FILLING 1 or COMPLETE 2, INPUT_CHANGED in bit 8 (R192). -/
def fillingState : Word := 1

/-- The COMPLETE header's first word (R192). -/
def completeState (inputChanged : Bool) : Word := if inputChanged then 0x102 else 2

/-- The quality-and-zone word of an entry (R118). -/
def qualityZoneWord (q : Quality) (z : ZoneState) : Word := Word.ofNat (q.code + 256 * z.code)

/-- Window offset of word `j` of the record with sequence number `seq` (R134). -/
def Configuration.recordWord (c : Configuration) (seq : Word) (j : Nat) : Nat :=
  c.stripOffset + 16 * ((seq.toNat - 1) % c.stripCapacity) + 4 * j

/-- Word 1 of a record: kind, point index, auxiliary field (R133). -/
def Event.headWord (e : Event) : Word := e.aux ++ e.point ++ BitVec.ofNat 8 e.kind.code

/-! ### Input words (R54, R55) -/

/-- The reading extracted from an input word by the raw format (R54). -/
def RawFormat.reading : RawFormat → Word → Int
  | .s16, w => (w.extractLsb' 0 16).toInt
  | .u16, w => ((w.extractLsb' 0 16).toNat : Int)
  | .s32, w => w.toInt

/-- The least reading of a format (R49). -/
def RawFormat.least : RawFormat → Int
  | .s16 => -32768 | .u16 => 0 | .s32 => -2147483648

/-- The greatest reading of a format (R49). -/
def RawFormat.greatest : RawFormat → Int
  | .s16 => 32767 | .u16 => 65535 | .s32 => 2147483647

end Sys2Proof.Machine
end

