-- ==== Sys2Proof/Machine/Curves.lean ====
section
/-! DEFINITION. Curve evaluation (chapter 1): exact integer arithmetic, one rounding rule, saturation of
the final result. -/
namespace Sys2Proof.Machine

/-- What an evaluation returns (R1). -/
inductive CurveResult
  | value (v : Word) (q : Quality)
  | noCurve
  deriving DecidableEq, Repr

/-- The quotient p/q rounded to nearest, halves away from zero (R4). -/
def roundedQuotient (p q : Int) : Int :=
  let w := p.natAbs / q.natAbs
  let r := p.natAbs % q.natAbs
  let magnitude : Nat := if q.natAbs ≤ 2 * r then w + 1 else w
  if (decide (p < 0)) = (decide (q < 0)) then (magnitude : Int) else -(magnitude : Int)

/-- The quotient truncated toward zero (R57, R59). -/
def truncatedQuotient (p : Int) (k : Nat) : Int := p.tdiv k

/-- Saturation to the signed 32-bit range, and whether it took place (R5, R57). -/
def saturate (v : Int) : Word × Bool :=
  if 2147483647 < v then (0x7FFFFFFF, true)
  else if v < -2147483648 then (0x80000000, true)
  else (BitVec.ofInt 32 v, false)

/-- The final result of a formula: GOOD, or CLAMPED if it saturated (R5). -/
def finalResult (v : Int) : CurveResult :=
  let (w, sat) := saturate v
  .value w (if sat then .clamped else .good)

/-- The line through (x0, y0) and (x1, y1) at x: y0 plus the rounded quotient (R9, R10, R19, R22). -/
def lineAt (x0 y0 x1 y1 x : Int) : Int :=
  y0 + roundedQuotient ((x - x0) * (y1 - y0)) (x1 - x0)

/-- A LINEAR2 evaluation from one axis (a) to the other (b): R9 forward with a = x, R10 inverse with a = y. -/
def evalLinear2 (aLo aHi bLo bHi : Word) (clamp : Bool) (input : Word) : CurveResult :=
  let v := input.toInt
  let lowEnd := if aLo.toInt ≤ aHi.toInt then bLo else bHi
  let highEnd := if aLo.toInt ≤ aHi.toInt then bHi else bLo
  if clamp ∧ v < min aLo.toInt aHi.toInt then .value lowEnd .clamped
  else if clamp ∧ max aLo.toInt aHi.toInt < v then .value highEnd .clamped
  else finalResult (lineAt aLo.toInt bLo.toInt aHi.toInt bHi.toInt v)

/-- Forward RATIO (R12). -/
def evalRatioForward (a b c : Word) (input : Word) : CurveResult :=
  finalResult (c.toInt + roundedQuotient (input.toInt * a.toNat) b.toNat)

/-- Inverse RATIO (R13). -/
def evalRatioInverse (a b c : Word) (input : Word) : CurveResult :=
  finalResult (roundedQuotient ((input.toInt - c.toInt) * b.toNat) a.toNat)

/-- Bits of the root from bit `bits − 1` down, above the part `r` already found. -/
def integerRootBits (n : Nat) : Nat → Nat → Nat
  | 0, r => r
  | b + 1, r =>
    if (r + 2 ^ b) * (r + 2 ^ b) ≤ n then integerRootBits n b (r + 2 ^ b) else integerRootBits n b r

/-- The greatest number whose square does not exceed n, for n below 2^64 (R15). -/
def integerRoot (n : Nat) : Nat := integerRootBits n 32 0

/-- Forward ROOT (R15); the cutoff c and the scale M are not negative. -/
def evalRoot (x0 c m y0 : Word) (input : Word) : CurveResult :=
  let d := input.toInt - x0.toInt
  if d < c.toNat then .value y0 .cutoff
  else finalResult (y0.toInt + integerRoot (d.toNat * m.toNat))

/-- Forward on the segments from pair `p` on, for an input at or after `p` (R18, R19). Past the last pair: pinned. -/
def evalSegmentsForward (p : Pair) : List Pair → Int → CurveResult
  | [], x => .value p.y (if x = p.x.toInt then .good else .clamped)
  | q :: rest, x =>
    if x < q.x.toInt then finalResult (lineAt p.x.toInt p.y.toInt q.x.toInt q.y.toInt x)
    else evalSegmentsForward q rest x

/-- Forward SEGMENTED (R18, R19). -/
def evalSegmentedForward (first : Pair) (rest : List Pair) (input : Word) : CurveResult :=
  if input.toInt < first.x.toInt then .value first.y .clamped
  else evalSegmentsForward first rest input.toInt

/-- Inverse with y ascending, for an input at or above `p` (R21, R22). -/
def evalSegmentsAscending (p : Pair) : List Pair → Int → CurveResult
  | [], y => .value p.x (if y = p.y.toInt then .good else .clamped)
  | q :: rest, y =>
    if y < q.y.toInt then finalResult (lineAt p.y.toInt p.x.toInt q.y.toInt q.x.toInt y)
    else evalSegmentsAscending q rest y

/-- Inverse with y descending, for an input at or below `p` (R21, R22). -/
def evalSegmentsDescending (p : Pair) : List Pair → Int → CurveResult
  | [], y => .value p.x (if y = p.y.toInt then .good else .clamped)
  | q :: rest, y =>
    if q.y.toInt < y then finalResult (lineAt p.y.toInt p.x.toInt q.y.toInt q.x.toInt y)
    else evalSegmentsDescending q rest y

/-- y strictly ascending from pair `p` on (R20). -/
def isAscending (p : Pair) : List Pair → Bool
  | [] => true
  | q :: rest => decide (p.y.toInt < q.y.toInt) && isAscending q rest

/-- y strictly descending from pair `p` on (R20). -/
def isDescending (p : Pair) : List Pair → Bool
  | [] => true
  | q :: rest => decide (q.y.toInt < p.y.toInt) && isDescending q rest

/-- Inverse SEGMENTED of an invertible body (R21, R22). -/
def evalSegmentedInverse (first : Pair) (rest : List Pair) (input : Word) : CurveResult :=
  if isAscending first rest then
    if input.toInt < first.y.toInt then .value first.x .clamped
    else evalSegmentsAscending first rest input.toInt
  else
    if first.y.toInt < input.toInt then .value first.x .clamped
    else evalSegmentsDescending first rest input.toInt

/-- When a body is invertible (R7, R20). -/
def CurveShape.isInvertible : CurveShape → Bool
  | .linear2 _ _ yLo yHi _ => yLo != yHi
  | .ratio .. => true
  | .root .. => false
  | .segmented first rest => isAscending first rest || isDescending first rest

/-- The pairs of a SEGMENTED body, in order; none for the other kinds. -/
def CurveShape.pairs : CurveShape → List Pair
  | .segmented first rest => first :: rest
  | .linear2 .. | .ratio .. | .root .. => []

/-- The clamp attribute: kept for LINEAR2, clear for the other kinds (R6). -/
def CurveShape.clamp : CurveShape → Bool
  | .linear2 _ _ _ _ clamp => clamp
  | .ratio .. | .root .. | .segmented .. => false

/-- A body's kind and parameters as words, for the free value of `evalUndefinedInverse`. -/
def CurveShape.words : CurveShape → List Word
  | .linear2 xLo xHi yLo yHi clamp => [1, xLo, xHi, yLo, yHi, Word.ofBool clamp]
  | .ratio a b c => [2, a, b, c]
  | .root x0 c m y0 => [3, x0, c, m, y0]
  | .segmented first rest => 4 :: (first :: rest).flatMap (fun p => [p.x, p.y])

/-- The free result of an inverse evaluation of a body that is not invertible: the spec gives none, and says
that none arises (R7, R16, R27). DESIGN CHOICE, log entry 8. -/
def evalUndefinedInverse (shape : CurveShape) (input : Word) : CurveResult :=
  .value (Config.nonInvertibleResult shape.words input)
    (match Config.nonInvertibleQuality shape.words input % 3 with
      | 0 => .good
      | 1 => .clamped
      | _ => .cutoff)

/-- Evaluation of a live body (R8 to R22). -/
def CurveShape.eval (shape : CurveShape) (dir : Direction) (input : Word) : CurveResult :=
  match dir, shape with
  | .forward, .linear2 xLo xHi yLo yHi clamp => evalLinear2 xLo xHi yLo yHi clamp input
  | .forward, .ratio a b c => evalRatioForward a b c input
  | .forward, .root x0 c m y0 => evalRoot x0 c m y0 input
  | .forward, .segmented first rest => evalSegmentedForward first rest input
  | .inverse, .linear2 xLo xHi yLo yHi clamp =>
    if yLo = yHi then evalUndefinedInverse shape input else evalLinear2 yLo yHi xLo xHi clamp input
  | .inverse, .ratio a b c => evalRatioInverse a b c input
  | .inverse, .root .. => evalUndefinedInverse shape input
  | .inverse, .segmented first rest =>
    if shape.isInvertible then evalSegmentedInverse first rest input else evalUndefinedInverse shape input

/-- A curve evaluation: curve "none" is the identity (R2), an EMPTY slot gives NO_CURVE (R3), a LIVE slot's
body is evaluated (R1). It reads the library and changes nothing. -/
def Clb.evaluate (clb : Clb) (curve : Option (Fin 64)) (dir : Direction) (input : Word) : CurveResult :=
  match curve with
  | none => .value input .good
  | some c =>
    match clb.slots[c].body with
    | none => .noCurve
    | some b => b.shape.eval dir input

end Sys2Proof.Machine
end

