-- ==== Sys2Proof/Machine/Tables.lean ====
section
/-! DEFINITION. Whole-table updates that evaluate structurally, and field-to-index conversions. -/
namespace Sys2Proof.Machine

/-- The table whose entry `i` is `f i`. -/
def tabulate {α : Type} (n : Nat) (f : Fin n → α) : Vector α n :=
  ⟨⟨(List.finRange n).map f⟩, by simp⟩

/-- The index a whole parameter word gives, when it lies below `n`. -/
def toIndex (n : Nat) (w : Word) : Option (Fin n) :=
  if h : w.toNat < n then some ⟨w.toNat, h⟩ else none

/-- A curve or zone-set byte: 0 to 63, or 255 for "none"; absent for any other value (R64). -/
def slotField (b : Byte) : Option (Option (Fin 64)) :=
  if h : b.toNat < 64 then some (some ⟨b.toNat, h⟩)
  else if b = 255 then some none
  else none

end Sys2Proof.Machine
end

