-- ==== Sys2Proof/Machine/Library.lean ====
section
/-! DEFINITION. The curve library (chapter 2): counts, the breakpoint pool, the body under construction, the checks of
a curve image, installation and deletion. -/
namespace Sys2Proof.Machine

/-- What a refused request leaves in its slot: result code and result words. -/
abbrev RefusedWith := ResultCode × List Word

/-- Replace one slot. -/
def Clb.setSlot (clb : Clb) (c : Fin 64) (slot : CurveSlot) : Clb := { clb with slots := clb.slots.set c slot }

/-- The blocks a live slot holds; none for an EMPTY one (R28). -/
def CurveSlot.blocks (slot : CurveSlot) : List (Fin Config.poolBlocks) :=
  match slot.body with
  | none => []
  | some b => b.blocks

/-- The blocks the body under construction holds (R29). -/
def Building.blocks (b : Building) : List (Fin Config.poolBlocks) :=
  match b.body with
  | none => []
  | some body => body.blocks

/-- The number of free blocks, as result words report it. -/
def Clb.freeWord (clb : Clb) : Word := Word.ofNat clb.free.length

/-- Blocks a shape needs: ceil(n/16) for SEGMENTED, 0 for the other kinds (R28, R38). -/
def CurveShape.blocksNeeded (shape : CurveShape) : Nat :=
  (shape.pairs.length + (Config.pairsPerBlock - 1)) / Config.pairsPerBlock

/-- The pairs placed in the `j`-th block a body holds: pairs 16j to 16j + 15 (R28). -/
def CurveShape.blockPairs (shape : CurveShape) (j : Nat) : List Pair :=
  (shape.pairs.drop (Config.pairsPerBlock * j)).take Config.pairsPerBlock

/-- Discard of the body under construction: its blocks become free, its buffer is emptied (R31). -/
def Clb.discard (clb : Clb) : Clb :=
  match clb.building with
  | none => clb
  | some b => { clb with free := clb.free ++ b.blocks, building := none }

/-- CLB opens the body under construction, with no blocks (R30). At most one exists: an earlier one is discarded. -/
def Clb.openBuilding (clb : Clb) (c : Fin 64) (offset length : Nat) : Clb :=
  { clb.discard with building := some ⟨c, offset, length, [], none⟩ }

/-- An image word joins the construction buffer (R30, R34). -/
def Clb.bufferWord (clb : Clb) (b : Building) (w : Word) : Clb :=
  { clb with building := some { b with buffer := b.buffer ++ [w] } }

/-- Reservation takes the blocks a shape needs from the free ones, and the body is whole (R38). Which free blocks
are taken is not visible (R28): the first ones, log entry 14. -/
def Clb.reserve (clb : Clb) (b : Building) (shape : CurveShape) : Clb :=
  let c1 := clb.discard
  { c1 with
    free := c1.free.drop shape.blocksNeeded
    building := some { b with body := some ⟨shape, shape.isInvertible, c1.free.take shape.blocksNeeded⟩ } }

/-- Installation (R39): the old body's blocks become free, the body under construction becomes the slot's live
body with the blocks it holds. -/
def Clb.install (clb : Clb) (c : Fin 64) (body : Body) : Clb :=
  { slots := clb.slots.set c { clb.slots[c] with body := some body }
    free := clb.free ++ clb.slots[c].blocks
    building := none }

/-- The apply step of DELETE_CURVE (R43). -/
def Clb.delete (clb : Clb) (c : Fin 64) : Clb :=
  { clb with
    slots := clb.slots.set c { clb.slots[c] with body := none }
    free := clb.free ++ clb.slots[c].blocks }

/-- Add one to the count of a direction (R26). -/
def CurveSlot.bind (slot : CurveSlot) : Direction → CurveSlot
  | .forward => { slot with forwardCount := slot.forwardCount + 1 }
  | .inverse => { slot with inverseCount := slot.inverseCount + 1 }

/-- Take one from the count of a direction (R26). -/
def CurveSlot.unbind (slot : CurveSlot) : Direction → CurveSlot
  | .forward => { slot with forwardCount := slot.forwardCount - 1 }
  | .inverse => { slot with inverseCount := slot.inverseCount - 1 }

/-- A point newly bound adds to its slot's count; curve "none" adds to no count (R26). -/
def Clb.bindPoint (clb : Clb) (d : PointDef) : Clb :=
  match d.curve with
  | none => clb
  | some c => clb.setSlot c (clb.slots[c].bind d.direction)

/-- A point leaving its binding takes from its slot's count (R26). -/
def Clb.unbindPoint (clb : Clb) (d : Option PointDef) : Clb :=
  match d with
  | none => clb
  | some d =>
    match d.curve with
    | none => clb
    | some c => clb.setSlot c (clb.slots[c].unbind d.direction)

/-! ### The checks of a curve image (R35, R36, R191) -/

/-- Word `n` of a buffered image. -/
def imageWord (image : List Word) (n : Nat) : Word := image.getD n 0

/-- The pairs of a SEGMENTED image from word `n` on. -/
def imagePairs (image : List Word) (n : Nat) : Nat → List Pair
  | 0 => []
  | k + 1 => ⟨imageWord image n, imageWord image (n + 1)⟩ :: imagePairs image (n + 2) k

/-- The index of the first x word not greater than the x before it (R36 order 7); `index` is that of the first
pair's x. -/
def orderFault (index : Nat) : List Pair → Option Nat
  | [] => none
  | [_] => none
  | p :: q :: rest =>
    if q.x.toInt ≤ p.x.toInt then some (index + 2) else orderFault (index + 2) (q :: rest)

/-- The length an image's kind and count require (R36 order 4). -/
def requiredLength (kind count : Nat) : Nat :=
  match kind with
  | 1 => 7
  | 2 => 6
  | 3 => 7
  | _ => 3 + 2 * count

/-- MALFORMED with a reason code and a word index (R36). -/
def malformed (reason index : Nat) : RefusedWith := (.malformed, [Word.ofNat reason, Word.ofNat index])

/-- RATIO's or ROOT's parameter test: the index of the first word out of range (R36 order 5). -/
def parameterFault (image : List Word) (kind : Nat) : Option Nat :=
  let outside (n : Nat) : Bool := let v := (imageWord image n).toNat; v == 0 || 65535 < v
  if kind = 2 then
    if outside 2 then some 2 else if outside 3 then some 3 else none
  else if kind = 3 then
    if (imageWord image 3).msb then some 3 else if imageWord image 4 = 0 then some 4 else none
  else none

/-- The structure check: its conditions in order, then the shape of the body (R36). -/
def structureCheck (image : List Word) (length : Nat) : Except RefusedWith CurveShape :=
  let head := (imageWord image 0).toNat
  let kind := head % 256
  let count := head / 256 % 256
  let at' := imageWord image
  if head / 65536 ≠ Config.imageSignature then .error (malformed 1 0)
  else if kind = 0 ∨ 4 < kind then .error (malformed 2 0)
  else if (kind = 4 ∧ (count < 2 ∨ 64 < count)) ∨ (kind ≠ 4 ∧ count ≠ 0) then .error (malformed 3 0)
  else if length ≠ requiredLength kind count then .error (malformed 4 (requiredLength kind count))
  else
    match parameterFault image kind with
    | some i => .error (malformed 5 i)
    | none =>
      match kind with
      | 1 =>
        if at' 2 = at' 3 then .error (malformed 6 3)
        else .ok (.linear2 (at' 2) (at' 3) (at' 4) (at' 5) ((at' 1).getLsbD 0))
      | 2 => .ok (.ratio (at' 2) (at' 3) (at' 4))
      | 3 => .ok (.root (at' 2) (at' 3) (at' 4) (at' 5))
      | _ =>
        match imagePairs image 2 count with
        | [] => .error (malformed 3 0)
        | first :: rest =>
          match orderFault 2 (first :: rest) with
          | some i => .error (malformed 7 i)
          | none => .ok (.segmented first rest)

/-- The check word test: all words but the last, against the last in all 32 bits (R35). -/
def checkWordTest (image : List Word) : Except RefusedWith Unit :=
  let computed : Word := (checkOfWords image.dropLast).setWidth 32
  let last := image.getLastD 0
  if computed = last then .ok () else .error (.checkFailed, [computed, last])

/-- The binding check (R37). -/
def bindingCheck (slot : CurveSlot) (shape : CurveShape) : Except RefusedWith Unit :=
  if 0 < slot.inverseCount ∧ shape.isInvertible = false then
    .error (.bindingConflict, [Word.ofNat slot.inverseCount])
  else .ok ()

/-- The test of reservation (R38). The free blocks are counted with none held by the body under construction. -/
def reservationCheck (clb : Clb) (shape : CurveShape) : Except RefusedWith Unit :=
  if clb.discard.free.length < shape.blocksNeeded then
    .error (.noRoom, [Word.ofNat shape.blocksNeeded, Word.ofNat clb.discard.free.length])
  else .ok ()

/-- The steps of a LOAD_CURVE after its image read, in their order; the first that fails decides (chapter 2.4, R35 to R38). -/
def Clb.checkImage (clb : Clb) (b : Building) : Except RefusedWith CurveShape := do
  checkWordTest b.buffer
  let shape ← structureCheck b.buffer b.length
  bindingCheck clb.slots[b.target] shape
  reservationCheck clb shape
  return shape

/-- QUERY_CURVE's result words (R44). -/
def Clb.query (clb : Clb) (c : Fin 64) : List Word :=
  let slot := clb.slots[c]
  let tail := [Word.ofNat slot.forwardCount, Word.ofNat slot.inverseCount, clb.freeWord]
  match slot.body with
  | none => [0, 0, 0] ++ tail
  | some b =>
    [Word.ofNat (1 + 65536 * b.shape.kindCode), Word.ofNat b.shape.pairs.length,
      Word.ofNat ((if b.invertible then 1 else 0) + (if b.shape.clamp then 2 else 0))] ++ tail

end Sys2Proof.Machine
end

