-- ==== Sys2Proof/Machine/Points.lean ====
section
/-! DEFINITION. The point table's rules for one conversion: source, curve, history and usability (R53 to R61). -/
namespace Sys2Proof.Machine

/-- What the source step gives (R54 to R57): a value with quality GOOD or CLAMPED, or BAD_RAW or NO_SOURCE. -/
inductive SourceResult
  | value (v : Word) (q : Quality)
  | unusable (q : Quality)
  deriving DecidableEq, Repr

/-- The reading of a RAW point against its span (R54, R55). -/
def rawSource (format : RawFormat) (lo hi : Word) (input : Word) : SourceResult :=
  let r := format.reading input
  if lo.toInt ≤ r ∧ r ≤ hi.toInt then .value (BitVec.ofInt 32 r) .good else .unusable .badRaw

/-- What a member of an aggregate contributes: the last output value of an ACTIVE point whose last usability is
USABLE (R56). -/
def Ptb.member (ptb : Ptb) (j : Nat) : Option Int :=
  if h : j < 256 then
    let p := ptb.points[j]
    if p.definition.isSome ∧ p.usability = .usable then some p.lastOutput.toInt else none
  else none

/-- The values of the usable members, from the first member upward (R56). -/
def Ptb.members (ptb : Ptb) (first count : Nat) : List Int :=
  (List.range count).filterMap (fun k => ptb.member (first + k))

/-- An aggregate's function over its usable members; none usable gives NO_SOURCE (R56, R57). -/
def aggregateSource (fn : AggregateFn) : List Int → SourceResult
  | [] => .unusable .noSource
  | v :: vs =>
    match fn with
    | .mean => .value (BitVec.ofInt 32 (truncatedQuotient ((v :: vs).sum) (vs.length + 1))) .good
    | .sum =>
      let (w, sat) := saturate ((v :: vs).sum)
      .value w (if sat then .clamped else .good)
    | .min => .value (BitVec.ofInt 32 (vs.foldl min v)) .good
    | .max => .value (BitVec.ofInt 32 (vs.foldl max v)) .good

/-- The conversion's outcome: a value with a usable quality, or an unusable quality (R58). -/
inductive Conversion
  | usable (v : Word) (q : Quality)
  | unusable (q : Quality)
  deriving DecidableEq, Repr

/-- The worse of source and curve quality: GOOD, then CUTOFF, then CLAMPED (R58). -/
def worseQuality (source curve : Quality) : Quality :=
  if source = .clamped then .clamped else curve

/-- The curve step (R58). -/
def curveStep (clb : Clb) (d : PointDef) : SourceResult → Conversion
  | .unusable q => .unusable q
  | .value v q =>
    match clb.evaluate d.curve d.direction v with
    | .noCurve => .unusable .noCurve
    | .value v' q' => .usable v' (worseQuality q q')

/-- A value joins the history; at window length the oldest goes (R59 steps 1 and 2). -/
def joinHistory (window : Nat) (history : List Word) (x : Word) : List Word :=
  (if history.length = window then history.tail else history) ++ [x]

/-- The mean of a history, truncated toward zero (R59 step 3). -/
def historyMean (history : List Word) : Word :=
  BitVec.ofInt 32 (truncatedQuotient ((history.map BitVec.toInt).sum) history.length)

/-- The working-state update of one point (R59 to R61): its new working state, the output quality and the quality
event it raises. The output value is the new last output value (R59 step 4, R60). -/
structure WorkingUpdate where
  point : Point
  quality : Quality
  event : Option EventKind
  deriving DecidableEq, Repr

/-- The quality event of the usability step (R61). -/
def usabilityEvent (last : Usability) (nowUsable : Bool) : Option EventKind :=
  match last, nowUsable with
  | .unusable, true => some .pointGood
  | .unusable, false => none
  | .notYet, true | .usable, true => none
  | .notYet, false | .usable, false => some .pointBad

/-- The working-state update, history step and usability step together (R53, R59 to R61). -/
def Point.update (p : Point) (window : Nat) : Conversion → WorkingUpdate
  | .usable x q =>
    let h := joinHistory window p.history x
    ⟨{ p with history := h, lastOutput := historyMean h, usability := .usable }, q,
      usabilityEvent p.usability true⟩
  | .unusable q => ⟨{ p with usability := .unusable }, q, usabilityEvent p.usability false⟩

/-- The quality event as it is handed to EVR (R61). -/
def qualityEvent (i : Fin 256) (value passNumber : Word) (q : Quality) (k : EventKind) : Event :=
  ⟨k, BitVec.ofNat 8 i.val, value, BitVec.ofNat 16 q.code, passNumber⟩

/-- Emptying a history leaves the rest of the working state (R69). -/
def Point.emptyHistory (p : Point) : Point := { p with history := [] }

/-- The working state restarts: history empty, last output 0, NOT_YET; the definition given stands (R66, R71). -/
def Point.restart (d : Option PointDef) : Point := ⟨d, [], 0, .notYet⟩

/-- ENGINE_RESET and DETACH on the point table (R71). -/
def Ptb.restartAll (ptb : Ptb) : Ptb :=
  ⟨tabulate 256 (fun i => Point.restart ptb.points[i].definition)⟩

/-- Whether a point is bound to a curve slot, in either direction. -/
def Point.boundTo (p : Point) (c : Fin 64) : Bool :=
  match p.definition with
  | none => false
  | some d => d.curve == some c

/-- Empty the history of every ACTIVE point bound to a slot (R39, R69). -/
def Ptb.emptyBound (ptb : Ptb) (c : Fin 64) : Ptb :=
  ⟨tabulate 256 (fun i => if ptb.points[i].boundTo c then ptb.points[i].emptyHistory else ptb.points[i])⟩

/-- Whether a point is ACTIVE and names a zone set. -/
def Point.namesZone (p : Point) (z : Fin 64) : Bool :=
  match p.definition with
  | none => false
  | some d => d.zoneSet == some z

end Sys2Proof.Machine
end

