-- ==== Sys2Proof/Machine/Bus.lean ====
section
/-! DEFINITION. The bus initiator port (chapter 10.1): issuing an access, the round-robin choice, the bound
check, the end of an access and what it leaves in the window. -/
namespace Sys2Proof.Machine

/-- A client's waiting access (R182). -/
def Bip.waiting (b : Bip) : Client → Option Access
  | .rqh => b.waitRqh
  | .pse => b.waitPse
  | .evr => b.waitEvr

/-- Set or clear a client's waiting access. -/
def Bip.setWaiting (b : Bip) (c : Client) (a : Option Access) : Bip :=
  match c with
  | .rqh => { b with waitRqh := a }
  | .pse => { b with waitPse := a }
  | .evr => { b with waitEvr := a }

/-- Withdraw every waiting access (R187). -/
def Bip.withdrawAll (b : Bip) : Bip :=
  { b with waitEng := none, waitRqh := none, waitPse := none, waitEvr := none }

/-- A client issues an access: it joins the waiting accesses (R183). -/
def State.issue (s : State) (c : Client) (offset : Nat) (op : AccessOp) : State :=
  { s with bip := s.bip.setWaiting c (some ⟨.client c, offset, op⟩) }

/-- ENG has an attach read made (R166). -/
def State.issueAttachRead (s : State) (offset : Nat) : State :=
  { s with bip := { s.bip with waitEng := some ⟨.eng, offset, .read⟩ } }

/-- The grant cycle RQH, PSE, EVR from the client after the last granted one (R186). -/
def Client.cycleAfter : Client → List Client
  | .rqh => [.pse, .evr, .rqh]
  | .pse => [.evr, .rqh, .pse]
  | .evr => [.rqh, .pse, .evr]

/-- The access the next grant goes to: an attach read, which stands outside the cycle, else the first client with a
waiting access in the cycle (R186). -/
def Bip.next (b : Bip) : Option Access :=
  b.waitEng.or ((b.lastGranted.cycleAfter).findSome? b.waiting)

/-- BIP's comparison before the grant (R184); an attach read is compared with the top of the address
space instead (R166). -/
def State.admits (s : State) (a : Access) : Bool :=
  match a.owner with
  | .eng => decide (s.eng.wbase.toNat + a.offset ≤ 2 ^ 32 - 4)
  | .client _ =>
    match s.eng.windowLength with
    | none => false
    | some len => decide (a.offset + 4 ≤ len)

/-- The access leaves the waiting accesses. -/
def Bip.unwait (b : Bip) (a : Access) : Bip :=
  match a.owner with
  | .eng => { b with waitEng := none }
  | .client c => b.setWaiting c none

/-- The grant: the access becomes the access in flight, its client the last granted; an attach read does
not change the last granted client (R186). -/
def State.grant (s : State) (a : Access) : State :=
  { s with bip := { s.bip.unwait a with
      inFlight := some a
      base := s.eng.wbase
      disregard := false
      lastGranted := match a.owner with | .eng => s.bip.lastGranted | .client c => c } }

/-- The local bus address of the access in flight, or of one that has just ended, by its offset (R183). -/
def State.busAddress (s : State) (offset : Nat) : Nat := s.bip.base.toNat + offset

/-- The word that stands at an offset of the window at WBASE, as the part last wrote or read it. -/
def State.windowWord (s : State) (offset : Nat) : Option Word :=
  Memory.readWord s.window (s.eng.wbase.toNat + offset)

/-- The access in flight leaves this word at its offset. -/
def State.placeWord (s : State) (offset : Nat) (w : Word) : State :=
  { s with window := Memory.writeWord s.window (s.busAddress offset) w }

/-- The access in flight has ended (R182); the disregard mark, if set, is cleared with it. -/
def State.endInFlight (s : State) : State :=
  { s with bip := { s.bip with inFlight := none, disregard := false } }

/-- The word an access writes; none for a read. -/
def AccessOp.written : AccessOp → Option Word
  | .read => none
  | .write w | .writeState w => some w

/-- A write that may or may not have changed its word: a free value decides (log entry 5). -/
def State.mayLand (s : State) (offset : Nat) (w : Word) : State :=
  if Config.failedWriteLands s.freeIndex then { s.placeWord offset w with freeIndex := s.freeIndex + 1 }
  else { s with freeIndex := s.freeIndex + 1 }

/-- An access failed, by an error answer or a timeout: of a write the old word or the new one stands there (R185), but a
COMPLETE header's state word is not written, and the bank stays FILLING (R129). A read leaves the window as it is. -/
def State.failedAccess (s : State) (a : Access) : State :=
  match a.op with
  | .read | .writeState _ => s
  | .write w => s.mayLand a.offset w

/-- RSTN came while the access was on the bus: of any write the old word or the new one stands there (log entry 5). -/
def State.interruptedAccess (s : State) (a : Access) : State :=
  match a.op.written with
  | none => s
  | some w => s.mayLand a.offset w

/-- A write that was answered stands in the window (R183); an answered read leaves the window as it is. -/
def State.completedAccess (s : State) (a : Access) : State :=
  match a.op.written with
  | none => s
  | some w => s.placeWord a.offset w

/-- The access in flight whose answer goes to `o`: it is `o`'s and not marked to be disregarded (R182). -/
def State.awaited (s : State) (o : Owner) : Option Access :=
  match s.bip.inFlight with
  | none => none
  | some a => if s.bip.disregard = false ∧ a.owner = o then some a else none

/-- Mark the access in flight, if any, to be disregarded, and withdraw the waiting ones (R187). -/
def Bip.giveUp (b : Bip) : Bip :=
  { b.withdrawAll with disregard := b.inFlight.isSome }

end Sys2Proof.Machine
end

