-- ==== Sys2Proof/Machine/Flags.lean ====
section
/-! DEFINITION. Interrupt causes, INTN, and the words the registers read (R173 to R177, R188). -/
namespace Sys2Proof.Machine

/-- The interrupt causes (R176), in the bit positions of R188. -/
inductive Cause
  | reqDone
  | passDone
  | event
  | fault
  | commandRefused
  deriving DecidableEq, Repr

/-- The bit of a cause in CAUSE and MASK (R188). -/
def Cause.bit : Cause → BitVec 5
  | .reqDone => 1 | .passDone => 2 | .event => 4 | .fault => 8 | .commandRefused => 16

/-- Raising a cause sets its bit (R176). -/
def State.raise (s : State) (c : Cause) : State :=
  { s with eng := { s.eng with cause := s.eng.cause ||| c.bit } }

/-- The level of the pin INTN: false is low (R177). -/
def State.intn (s : State) : Bool := s.eng.cause &&& s.eng.mask == 0

/-- The registers of the register window (R188). -/
inductive Register
  | ident
  | wbase
  | cmd
  | stat
  | cause
  | mask
  | faddr
  deriving DecidableEq, Repr

/-- STAT bits 31:16: the expected ticket, or in DETACHED and ATTACHING the attach-failure reason (R188). -/
def State.statHigh (s : State) : BitVec 16 :=
  match s.eng.engine with
  | .detached | .attaching => BitVec.ofNat 16 s.eng.attachReason.code
  | .idle | .running | .stopping | .faulted => s.rqh.expectedTicket

/-- The word STAT reads (R175, R188), its fields from bit 31 down. -/
def State.statWord (s : State) : Word :=
  s.statHigh
    ++ (s.eng.lastRefusal.extractLsb' 0 5)
    ++ BitVec.ofNat 2 (match s.eng.faultRecord with | some r => r.client.code | none => 0)
    ++ BitVec.ofNat 2 (match s.eng.faultRecord with | some r => r.kind.code | none => 0)
    ++ BitVec.ofBool s.eng.secondFault
    ++ BitVec.ofBool s.evr.ackInvalid
    ++ BitVec.ofBool s.rqh.waitingForTicket
    ++ BitVec.ofBool s.eng.faultEntry
    ++ BitVec.ofNat 3 s.eng.engine.code

/-- The word a read of a register returns; the read changes nothing (R173). -/
def State.readRegister (s : State) : Register → Word
  | .ident => 0x0256A001
  | .wbase => s.eng.wbase
  | .cmd => 0
  | .stat => s.statWord
  | .cause => s.eng.cause.setWidth 32
  | .mask => s.eng.mask.setWidth 32
  | .faddr => Word.ofNat (match s.eng.faultRecord with | some r => r.offset | none => 0)

end Sys2Proof.Machine
end

