-- ==== Sys2Proof/Machine/Recorder.lean ====
section
/-! DEFINITION. The event recorder (chapter 7): taking events, room, the acknowledge word, records, drops. -/
namespace Sys2Proof.Machine

/-- An event is dropped: the pending dropped count, which holds at its greatest value, and DROPPED, which wraps (R138). -/
def Evr.drop (r : Evr) : Evr :=
  { r with
    pendingDropped := if r.pendingDropped = Word.max then Word.max else r.pendingDropped + 1
    dropped := r.dropped + 1 }

/-- There is room while W − A is less than the strip capacity (R136). -/
def Evr.hasRoom (r : Evr) (capacity : Nat) : Bool := decide ((r.w - r.a).toNat < capacity)

/-- The test of an acknowledge word (R137). -/
def Evr.accepts (r : Evr) (capacity : Nat) (v : Word) : Bool := decide ((r.w - v).toNat ≤ capacity)

/-- The acknowledge word is accepted, or refused with the ack-invalid flag set (R137). -/
def Evr.takeAck (r : Evr) (capacity : Nat) (v : Word) : Evr :=
  if r.accepts capacity v then { r with a := v, ackInvalid := false } else { r with ackInvalid := true }

/-- The word and the offset of write `k` of a record (R135). -/
def recordWrite (c : Configuration) (seq : Word) (e : Event) (k : Fin 5) : Nat × Word :=
  match k with
  | 0 => (c.recordWord seq 1, e.headWord)
  | 1 => (c.recordWord seq 2, e.value)
  | 2 => (c.recordWord seq 3, e.passNumber)
  | 3 => (c.recordWord seq 0, seq)
  | 4 => (highWaterOffset, seq)

/-- EVR issues write `k` of a record. -/
def State.recordStep (s : State) (c : Configuration) (seq : Word) (e : Event) (k : Fin 5)
    (behind : Option Event) : State :=
  { s with evr := { s.evr with work := .writing seq e k behind } }.issue .evr
    (recordWrite c seq e k).1 (.write (recordWrite c seq e k).2)

/-- EVR begins the record of an event, with sequence number W + 1 (R134, R135). -/
def State.beginRecord (s : State) (c : Configuration) (e : Event) (behind : Option Event) : State :=
  s.recordStep c (s.evr.w + 1) e 0 behind

/-- The LOST record's event as EVR forms it (R133, R139). -/
def State.lostEvent (s : State) : Event := ⟨.lost, 255, s.evr.pendingDropped, 0, s.pse.passNumber⟩

/-- EVR begins the LOST record that goes before an event (R139). -/
def State.beginLost (s : State) (c : Configuration) (e : Event) : State :=
  s.beginRecord c s.lostEvent (some e)

/-- EVR's view is full: it reads the acknowledge word (R137). -/
def State.readAck (s : State) (lostFirst : Bool) (e : Event) : State :=
  { s with evr := { s.evr with work := .readingAck lostFirst e } }.issue .evr ackOffset .read

/-- Room is judged for the event itself (R136, R139 step 3). -/
def State.startOwn (s : State) (c : Configuration) (e : Event) : State :=
  if s.evr.hasRoom c.stripCapacity then s.beginRecord c e none else s.readAck false e

/-- Room is judged for an event just taken from the queue: a LOST record goes first while drops are pending (R139). -/
def State.startEvent (s : State) (c : Configuration) (e : Event) : State :=
  if s.evr.pendingDropped = 0 then s.startOwn c e
  else if s.evr.hasRoom c.stripCapacity then s.beginLost c e
  else s.readAck true e

/-- EVR takes the oldest event of the queue; with W at its greatest value each event taken is dropped (R131, R134). -/
def State.takeEvents (c : Configuration) : List Event → State → State
  | [], s => { s with evr := { s.evr with queue := [], work := .idle } }
  | e :: q, s =>
    if s.evr.w = Word.max then State.takeEvents c q { s with evr := s.evr.drop }
    else { s with evr := { s.evr with queue := q } }.startEvent c e

/-- EVR goes on to the next event in the queue, if there is one (R135). -/
def State.nextEvent (s : State) : State :=
  match s.eng.config with
  | none => { s with evr := { s.evr with work := .idle } }
  | some c => State.takeEvents c s.evr.queue s

/-- A block hands an event to EVR (R132). It joins the queue, or is dropped when the queue holds 64; an idle EVR
takes the oldest at once (DEDUCED, log entry 9). With no configuration nothing reaches EVR. -/
def State.hand (s : State) (e : Event) : State :=
  match s.eng.config with
  | none => s
  | some c =>
    if Config.queueCapacity ≤ s.evr.queue.length then { s with evr := s.evr.drop }
    else
      let s' := { s with evr := { s.evr with queue := s.evr.queue ++ [e] } }
      match s.evr.work with
      | .idle => State.takeEvents c s'.evr.queue s'
      | .readingAck .. | .writing .. => s'

/-- Events handed in one step by one block, in the order that block gives (R132). -/
def State.handAll (s : State) (es : List Event) : State := es.foldl State.hand s

/-- Events handed together by PSE and by the owner of an edit join in either order (R132): PSE's event joins
before some number of the owner's, a free value. Log entry 6. -/
def State.handTogether (s : State) (pse : Option Event) (owner : List Event) : State :=
  match pse, owner with
  | none, es => s.handAll es
  | some e, [] => s.hand e
  | some e, o :: os =>
    let place := Config.eventPlace s.freeIndex
    { s with freeIndex := s.freeIndex + 1 }.handAll ((o :: os).take place ++ e :: (o :: os).drop place)

/-- The answer to the acknowledge word read (R137, R139): tested, then room is judged again. -/
def State.ackWordRead (s : State) (c : Configuration) (lostFirst : Bool) (e : Event) (v : Word) : State :=
  let s1 := { s with evr := s.evr.takeAck c.stripCapacity v }
  if s1.evr.hasRoom c.stripCapacity then
    if lostFirst then s1.beginLost c e else s1.beginRecord c e none
  else { s1 with evr := s1.evr.drop }.nextEvent

/-- Word 0 of a record is answered: W becomes its number, and a LOST record's count comes off the pending dropped
count (R135, R139). -/
def Evr.recordWritten (r : Evr) (seq : Word) (e : Event) : Evr :=
  { r with
    w := seq
    pendingDropped := if e.kind = .lost then r.pendingDropped - e.value else r.pendingDropped }

/-- The high-water write is answered: the record is finished, EVENT is raised, and EVR goes on to the event behind a
LOST record or to the queue (R135, R139 step 3). Behind a LOST record that took the greatest number the event is dropped without
judging room (R134: EVR writes no further record): DEDUCED, log entry 25. -/
def State.recordFinished (s : State) (c : Configuration) (behind : Option Event) : State :=
  let s1 := { s with evr := { s.evr with work := .idle } }.raise .event
  match behind with
  | none => s1.nextEvent
  | some e =>
    if s1.evr.w = Word.max then { s1 with evr := s1.evr.drop }.nextEvent else s1.startOwn c e

/-- The events EVR's work holds whose records have not been written (R140 to R142). The event behind a LOST record is
one of them (DEDUCED from R138, log entry 10); a LOST record itself is not an event. -/
def EvrWork.unwritten : EvrWork → List Event
  | .idle => []
  | .readingAck _ e => [e]
  | .writing _ e k behind =>
    (if k.val < 4 ∧ e.kind ≠ .lost then [e] else []) ++ behind.toList

/-- Every event EVR holds, none of them written. -/
def Evr.heldEvents (r : Evr) : List Event := r.work.unwritten ++ r.queue

/-- Fault entry on EVR: the work ends, the queue is emptied, each event is counted as dropped (R140, R141). -/
def Evr.endAtFault (r : Evr) : Evr :=
  { r.heldEvents.foldl (fun r _ => r.drop) r with queue := [], work := .idle }

/-- CONFIGURE's effect and DETACH on EVR: W, A, pending dropped count and flag cleared, events discarded are
added to DROPPED alone (R142, R143). -/
def Evr.discard (r : Evr) : Evr :=
  { Evr.powerOn with dropped := r.dropped + Word.ofNat r.heldEvents.length }

end Sys2Proof.Machine
end

