-- ==== Sys2Proof/Machine/Zones.lean ====
section
/-! DEFINITION. The zone supervisor's rules for one point (R79 to R84, R76, R88). -/
namespace Sys2Proof.Machine

/-- What a move of one point gives: its zone, and the events in the order they arise (R85). -/
structure ZoneMove where
  zone : PointZone
  events : List EventKind
  deriving DecidableEq, Repr

/-- above: v > U (R79). -/
def ZoneSet.above (z : ZoneSet) (v : Int) : Bool := decide (z.upper.toInt < v)
/-- below: v < L (R79). -/
def ZoneSet.below (z : ZoneSet) (v : Int) : Bool := decide (v < z.lower.toInt)
/-- returned from high: v ≤ U − h (R79). -/
def ZoneSet.returnedFromHigh (z : ZoneSet) (v : Int) : Bool :=
  decide (v ≤ z.upper.toInt - z.hysteresis.toNat)
/-- returned from low: v ≥ L + h (R79). -/
def ZoneSet.returnedFromLow (z : ZoneSet) (v : Int) : Bool :=
  decide (z.lower.toInt + z.hysteresis.toNat ≤ v)

/-- The move of a usable value from INSIDE or UNKNOWN (R80). -/
def ZoneSet.fromInside (z : ZoneSet) (v : Int) (acked : Bool) : ZoneMove :=
  if z.above v then
    if z.dwell = 1 then ⟨⟨.high, acked⟩, [.highEnter]⟩ else ⟨⟨.highPending 1, acked⟩, []⟩
  else if z.below v then
    if z.dwell = 1 then ⟨⟨.low, acked⟩, [.lowEnter]⟩ else ⟨⟨.lowPending 1, acked⟩, []⟩
  else ⟨⟨.inside, acked⟩, []⟩

/-- A LEAVE event, then the moves of the same value from INSIDE with the mark cleared (R82). -/
def ZoneSet.leave (z : ZoneSet) (v : Int) (event : EventKind) : ZoneMove :=
  let m := z.fromInside v false
  ⟨m.zone, event :: m.events⟩

/-- The move of a usable value (R80 to R83). NONE does not occur with a zone set named; it stays. -/
def ZoneSet.moveUsable (z : ZoneSet) (p : PointZone) (v : Int) : ZoneMove :=
  match p.state with
  | .none => ⟨p, []⟩
  | .unknown => z.fromInside v p.acked
  | .inside => z.fromInside v p.acked
  | .highPending k =>
    if z.above v then
      if k + 1 = z.dwell then ⟨⟨.high, p.acked⟩, [.highEnter]⟩ else ⟨⟨.highPending (k + 1), p.acked⟩, []⟩
    else z.fromInside v p.acked
  | .lowPending k =>
    if z.below v then
      if k + 1 = z.dwell then ⟨⟨.low, p.acked⟩, [.lowEnter]⟩ else ⟨⟨.lowPending (k + 1), p.acked⟩, []⟩
    else z.fromInside v p.acked
  | .high =>
    if z.returnedFromHigh v then
      if z.latch && !p.acked then ⟨⟨.highHeld, p.acked⟩, []⟩ else z.leave v .highLeave
    else ⟨p, []⟩
  | .low =>
    if z.returnedFromLow v then
      if z.latch && !p.acked then ⟨⟨.lowHeld, p.acked⟩, []⟩ else z.leave v .lowLeave
    else ⟨p, []⟩
  | .highHeld => if z.above v then ⟨⟨.high, false⟩, []⟩ else ⟨p, []⟩
  | .lowHeld => if z.below v then ⟨⟨.low, false⟩, []⟩ else ⟨p, []⟩

/-- The move of an unusable value (R84). -/
def PointZone.moveUnusable (p : PointZone) : PointZone :=
  match p.state with
  | .highPending _ | .lowPending _ => ⟨.inside, p.acked⟩
  | .none | .unknown | .inside | .high | .low | .highHeld | .lowHeld => p

/-- ZSV's evaluation of one point (R79): with no zone set the state stays NONE. -/
def Zsv.evaluate (zsv : Zsv) (zoneSet : Option (Fin 64)) (p : PointZone) (value : Word) (q : Quality) : ZoneMove :=
  match zoneSet with
  | none => ⟨p, []⟩
  | some z => if q.isUsable then (zsv.sets[z]).moveUsable p value.toInt else ⟨p.moveUnusable, []⟩

/-- The zone a point starts from: UNKNOWN where a zone set is named, NONE where not, mark clear (R66, R91). -/
def PointZone.start (d : Option PointDef) : PointZone :=
  match d with
  | some ⟨_, _, _, some _, _⟩ => ⟨.unknown, false⟩
  | some ⟨_, _, _, none, _⟩ | none => ⟨.none, false⟩

/-- The adjustment of a point that names a zone set being written with this latch (R76). -/
def PointZone.adjust (p : PointZone) (latch : Bool) : ZoneMove :=
  match p.state with
  | .highPending _ | .lowPending _ => ⟨⟨.inside, p.acked⟩, []⟩
  | .highHeld => if latch then ⟨p, []⟩ else ⟨⟨.inside, p.acked⟩, [.highLeave]⟩
  | .lowHeld => if latch then ⟨p, []⟩ else ⟨⟨.inside, p.acked⟩, [.lowLeave]⟩
  | .none | .unknown | .inside | .high | .low => ⟨p, []⟩

/-- The acknowledgement of a named point (R88). -/
def PointZone.acknowledge (p : PointZone) : ZoneMove :=
  match p.state with
  | .highHeld => ⟨⟨.inside, p.acked⟩, [.highLeave]⟩
  | .lowHeld => ⟨⟨.inside, p.acked⟩, [.lowLeave]⟩
  | .high | .low => ⟨⟨p.state, true⟩, []⟩
  | .none | .unknown | .inside | .highPending _ | .lowPending _ => ⟨p, []⟩

/-- The auxiliary field of a zone event: the zone state as it arises (R85). -/
def EventKind.zoneAux : EventKind → BitVec 16
  | .highEnter => 4
  | .lowEnter => 7
  | .highLeave | .lowLeave => 2
  | .pointBad | .pointGood | .curveInstalled | .overrun | .inputBusy | .lost => 0

/-- A zone event of a point as it is handed to EVR (R85). -/
def zoneEvent (i : Fin 256) (value passNumber : Word) (k : EventKind) : Event :=
  ⟨k, BitVec.ofNat 8 i.val, value, k.zoneAux, passNumber⟩

end Sys2Proof.Machine
end

