-- ==== Sys2Proof/Machine/Requests.lean ====
section
/-! DEFINITION. The request handler (chapter 8) and the owners' checks and apply steps: scanning, taking, working on
the held request by its kind, applying an edit, finishing. -/
namespace Sys2Proof.Machine

/-! ### Scans (R147, R148) -/

/-- RQH is part-way through a scan or a take, or holds a request. -/
def Rqh.busy (r : Rqh) : Bool := r.held.isSome || r.scan.isSome

/-- The deferred-apply flag: the held request's apply step waits (R145, R152). Log entry 15. -/
def Rqh.deferredApply (r : Rqh) : Bool :=
  match r.held with
  | some ⟨_, _, _, _, .awaitApply _ _⟩ => true
  | _ => false

/-- The edit the held request waits to apply, if it waits. -/
def Rqh.waitingEdit (r : Rqh) : Option Edit :=
  match r.held with
  | some ⟨_, _, _, _, .awaitApply e _⟩ => some e
  | _ => none

/-- A scan begins: its flag is cleared, and slot 0's word 0 is read (R147, R148). -/
def State.beginScan (s : State) : State :=
  { s with rqh := { s.rqh with scan := some (.reading 0 (Vector.replicate 16 0)), scanRequested := false } }.issue
    .rqh (slotOffset 0 0) .read

/-- A scan occasion (R147). -/
def State.scanOccasion (s : State) : State :=
  if s.rqh.busy then { s with rqh := { s.rqh with scanRequested := true } } else s.beginScan

/-- The slots a scan finds POSTED with a ticket of this class, in ascending order (R146, R148). -/
def Rqh.slotsOf (r : Rqh) (heads : Vector Word 16) (cls : TicketClass) : List (Fin 16) :=
  (List.finRange 16).filter (fun b =>
    isPosted heads[b] && ticketClass r.expectedTicket (headTicket heads[b]) == cls)

/-- A scan ends without a take: the waiting-for-ticket flag, and another scan if one was asked for (R148, R150, R147). -/
def State.endScan (s : State) (heads : Vector Word 16) : State :=
  let s1 := { s with rqh := { s.rqh with
    scan := none
    waitingForTicket := !(s.rqh.slotsOf heads .ahead).isEmpty } }
  if s1.rqh.scanRequested then s1.beginScan else s1

/-- The take of a slot begins with the read of its first parameter word (R149). -/
def State.beginTake (s : State) (slot : Fin 16) (head : Word) : State :=
  { s with rqh := { s.rqh with scan := some (.paramRead slot head 0 (Vector.replicate 8 0)) } }.issue
    .rqh (slotOffset slot 1) .read

/-- After the stale refusals: the lowest-numbered candidate is taken, or the scan ends (R148). -/
def State.takeOrEnd (s : State) (heads : Vector Word 16) : State :=
  match s.rqh.slotsOf heads .candidate with
  | [] => s.endScan heads
  | b :: _ => s.beginTake b heads[b]

/-- The word write `k` of a stale refusal places (R148). -/
def staleWord (expected : BitVec 16) (head : Word) (k : Fin 8) : Word :=
  if k.val = 0 then Word.ofNat ResultCode.staleTicket.code
  else if k.val = 1 then expected.setWidth 32
  else if k.val = 7 then headWord (headTicket head) (headKind head) .refused
  else 0

/-- RQH issues write `k` of a stale refusal. -/
def State.staleStep (s : State) (heads : Vector Word 16) (slot : Fin 16) (k : Fin 8) : State :=
  { s with rqh := { s.rqh with scan := some (.staleWrite heads slot k) } }.issue
    .rqh (slotOffset slot (finishingWordIndex k)) (.write (staleWord s.rqh.expectedTicket heads[slot] k))

/-- The next stale slot from `n` on is refused; after the last one, the take (R148). -/
def State.refuseStaleFrom (s : State) (heads : Vector Word 16) (n : Nat) : State :=
  match (s.rqh.slotsOf heads .stale).find? (fun b => decide (n ≤ b.val)) with
  | some b => s.staleStep heads b 0
  | none => s.takeOrEnd heads

/-- A slot's word 0 has been read: the next slot is read, and after slot 15 the slots are classified (R148). -/
def State.slotRead (s : State) (k : Fin 16) (heads : Vector Word 16) (w : Word) : State :=
  let heads := heads.set k w
  if h : k.val + 1 < 16 then
    { s with rqh := { s.rqh with scan := some (.reading ⟨k.val + 1, h⟩ heads) } }.issue
      .rqh (slotOffset ⟨k.val + 1, h⟩ 0) .read
  else s.refuseStaleFrom heads 0

/-- A stale refusal write is answered; at word 0 REFUSED is counted and REQ_DONE raised (R148, R158). -/
def State.staleWritten (s : State) (heads : Vector Word 16) (slot : Fin 16) (k : Fin 8) : State :=
  if h : k.val + 1 < 8 then s.staleStep heads slot ⟨k.val + 1, h⟩
  else
    let s1 := { s with rqh := { s.rqh with refused := s.rqh.refused + 1 } }.raise .reqDone
    s1.refuseStaleFrom heads (slot.val + 1)

/-- A parameter word has been read: the next is read, or TAKEN is written (R149). -/
def State.parameterRead (s : State) (slot : Fin 16) (head : Word) (k : Fin 8) (params : Vector Word 8)
    (w : Word) : State :=
  let params := params.set k w
  if h : k.val + 1 < 8 then
    { s with rqh := { s.rqh with scan := some (.paramRead slot head ⟨k.val + 1, h⟩ params) } }.issue
      .rqh (slotOffset slot (k.val + 2)) .read
  else
    { s with rqh := { s.rqh with scan := some (.takenWrite slot head params) } }.issue
      .rqh (slotOffset slot 0) (.write (headWord (headTicket head) (headKind head) .taken))

/-- The TAKEN write is answered: the request is held, the expected ticket advances, and header word 10 is written (R149). -/
def State.requestTaken (s : State) (slot : Fin 16) (head : Word) (params : Vector Word 8) : State :=
  { s with rqh := { s.rqh with
      held := some ⟨slot, headKind head, headTicket head, params, .taken⟩
      expectedTicket := s.rqh.expectedTicket + 1
      waitingForTicket := false
      effectTaken := false
      scan := some .ticketWrite } }.issue
    .rqh lastTicketOffset (.write ((headTicket head).setWidth 32))

/-! ### Finishing (R153) -/

/-- The word finishing write `k` places (R153). -/
def finishingWord (h : Held) (code : ResultCode) (results : Vector Word 6) (k : Fin 8) : Word :=
  if k.val = 0 then Word.ofNat code.code
  else if hk : k.val < 7 ∧ 0 < k.val then results[k.val - 1]
  else headWord h.ticket h.kind (if code = ResultCode.ok then .done else .refused)

/-- RQH issues finishing write `k` of the held request. -/
def State.finishStep (s : State) (h : Held) (code : ResultCode) (results : Vector Word 6) (k : Fin 8) : State :=
  { s with rqh := { s.rqh with held := some { h with stage := .finishing code results k } } }.issue
    .rqh (slotOffset h.slot (finishingWordIndex k)) (.write (finishingWord h code results k))

/-- RQH begins finishing the held request with a result code and result words (R153). -/
def State.finish (s : State) (h : Held) (code : ResultCode) (words : List Word) : State :=
  s.finishStep h code (resultWords words) 0

/-- A refusal: the request is finished with the code and words of the check that failed (R151). -/
def State.refuse (s : State) (h : Held) (r : RefusedWith) : State := s.finish h r.1 r.2

/-- A refusal of a LOAD_CURVE from the image read on: the body under construction is discarded (R31). -/
def State.refuseLoad (s : State) (h : Held) (r : RefusedWith) : State :=
  { s with clb := s.clb.discard }.refuse h r

/-- A finishing write is answered; at word 0 the request is released, REFUSED may be counted, REQ_DONE is raised and
a scan begins (R153). -/
def State.finishingWritten (s : State) (h : Held) (code : ResultCode) (results : Vector Word 6)
    (k : Fin 8) : State :=
  if hk : k.val + 1 < 8 then s.finishStep h code results ⟨k.val + 1, hk⟩
  else
    ({ s with rqh := { s.rqh with
        held := none
        effectTaken := false
        refused := if code = ResultCode.ok then s.rqh.refused else s.rqh.refused + 1 } }.raise .reqDone).scanOccasion

/-! ### Apply steps (R39, R43, R66, R68, R75, R88) -/

/-- The state an apply step leaves, the events its owner hands, and the result words. -/
structure Applied where
  state : State
  events : List Event
  words : List Word

/-- The CURVE_INSTALLED event (R40, R133). -/
def installedEvent (c : Fin 64) (passNumber : Word) : Event :=
  ⟨.curveInstalled, 255, 0, BitVec.ofNat 16 c.val, passNumber⟩

/-- Installation (R39, R40). Without a body under construction there is nothing to install. -/
def State.applyInstall (s : State) (c : Fin 64) : Applied :=
  match s.clb.building.bind Building.body with
  | none => ⟨s, [], []⟩
  | some body =>
    let clb := s.clb.install c body
    ⟨{ s with clb := clb, ptb := s.ptb.emptyBound c },
      [installedEvent c s.pse.passNumber],
      [Word.ofNat body.blocks.length, clb.freeWord, Word.ofBool body.invertible, s.pse.passNumber]⟩

/-- Deletion (R43). -/
def State.applyDelete (s : State) (c : Fin 64) : Applied :=
  let clb := s.clb.delete c
  ⟨{ s with clb := clb }, [], [clb.freeWord, Word.ofNat s.clb.slots[c].blocks.length]⟩

/-- Move the zones of the points `named` picks by `move`, each event in ascending point index order with the point's
last output value (R76, R85, R88). -/
def State.moveZones (s : State) (named : Fin 256 → Bool) (move : PointZone → ZoneMove) : State × List Event :=
  let moved : Fin 256 → ZoneMove := fun i => if named i then move s.zsv.zones[i] else ⟨s.zsv.zones[i], []⟩
  ({ s with zsv := { s.zsv with zones := tabulate 256 (fun i => (moved i).zone) } },
    (List.finRange 256).flatMap (fun i =>
      (moved i).events.map (zoneEvent i s.ptb.points[i].lastOutput s.pse.passNumber)))

/-- How many points `named` picks. -/
def countNamed (named : Fin 256 → Bool) : Nat := ((List.finRange 256).filter named).length

/-- The apply step of SET_ZONES (R75 to R77). -/
def State.applySetZones (s : State) (z : Fin 64) (contents : ZoneSet) : Applied :=
  let named : Fin 256 → Bool := fun i => s.ptb.points[i].namesZone z
  let s1 := { s with zsv := { s.zsv with sets := s.zsv.sets.set z { contents with written := true } } }
  let moved := s1.moveZones named (fun p => p.adjust contents.latch)
  ⟨moved.1, moved.2,
    [Word.ofBool s.zsv.sets[z].written, Word.ofNat (countNamed named),
      Word.ofNat (countNamed (fun i =>
        named i && (s.zsv.zones[i].adjust contents.latch).zone.state != s.zsv.zones[i].state)),
      s.pse.passNumber]⟩

/-- The apply step of SET_POINT (R66, R67). -/
def State.applySetPoint (s : State) (i : Fin 256) (d : PointDef) : Applied :=
  let old := s.ptb.points[i].definition
  ⟨{ s with
      clb := (s.clb.unbindPoint old).bindPoint d
      ptb := ⟨s.ptb.points.set i (Point.restart (some d))⟩
      zsv := { s.zsv with zones := s.zsv.zones.set i (PointZone.start (some d)) } },
    [], [Word.ofBool old.isSome, s.pse.passNumber]⟩

/-- The apply step of CLEAR_POINT (R68). -/
def State.applyClearPoint (s : State) (i : Fin 256) : Applied :=
  let old := s.ptb.points[i].definition
  ⟨{ s with
      clb := s.clb.unbindPoint old
      ptb := ⟨s.ptb.points.set i Point.unused⟩
      zsv := { s.zsv with zones := s.zsv.zones.set i (PointZone.start none) } },
    [], [Word.ofBool old.isSome, s.pse.passNumber]⟩

/-- The points an ACK_ZONE names (R87). -/
def State.ackNamed (s : State) (t : AckTarget) (i : Fin 256) : Bool :=
  match t with
  | .point j =>
    decide (i = j) &&
      (match s.ptb.points[i].definition with
        | none => false
        | some d => d.zoneSet.isSome)
  | .zoneSet z => s.ptb.points[i].namesZone z

/-- The apply step of ACK_ZONE (R88, R89). -/
def State.applyAckZone (s : State) (t : AckTarget) : Applied :=
  let moved := s.moveZones (s.ackNamed t) PointZone.acknowledge
  ⟨moved.1, moved.2,
    [Word.ofNat (countNamed (fun i => s.ackNamed t i && s.zsv.zones[i].acknowledge.zone != s.zsv.zones[i])),
      Word.ofNat (countNamed (s.ackNamed t)), s.pse.passNumber]⟩

/-- The apply step of an edit, whole (R152). -/
def State.applyEdit (s : State) : Edit → Applied
  | .install c => s.applyInstall c
  | .delete c => s.applyDelete c
  | .setZones z contents => s.applySetZones z contents
  | .setPoint i d => s.applySetPoint i d
  | .clearPoint i => s.applyClearPoint i
  | .ackZone t => s.applyAckZone t

/-- The apply step is taken: the owner's change, then the effect-taken mark and the finishing (R152, R153). The
owner's events come back beside the state. -/
def State.takeEdit (s : State) (h : Held) (e : Edit) : State × List Event :=
  let applied := s.applyEdit e
  ({ applied.state with rqh := { applied.state.rqh with effectTaken := true } }.finish h .ok applied.words,
    applied.events)

/-- The apply step taken at once, its events handed to EVR. -/
def State.applyNow (s : State) (h : Held) (e : Edit) : State :=
  let (s1, events) := s.takeEdit h e
  s1.handAll events

/-- The request reaches its apply step: taken at once in NO_PASS, deferred in IN_PASS (R152, R108). -/
def State.reachApply (s : State) (h : Held) (e : Edit) : State :=
  if s.pse.pass.isSome then
    { s with rqh := { s.rqh with held := some { h with stage := .awaitApply e false } } }
  else s.applyNow h e

/-! ### Parameter checks -/

/-- BAD_PARAM with a reason in the first result word. -/
def badParam (reason : Nat) : RefusedWith := (.badParam, [Word.ofNat reason])

/-- SET_ZONES' parameters (R74). -/
def checkSetZones (h : Held) : Except RefusedWith (Fin 64 × ZoneSet) :=
  match toIndex 64 (h.param 0) with
  | none => .error (badParam 1)
  | some z =>
    let lower := h.param 1
    let upper := h.param 2
    let hysteresis := h.param 3
    let dwell := (h.param 4).toNat
    if upper.toInt < lower.toInt then .error (badParam 2)
    else if upper.toInt - lower.toInt < hysteresis.toNat then .error (badParam 3)
    else if dwell < 1 ∨ 15 < dwell then .error (badParam 4)
    else .ok (z, ⟨true, lower, upper, hysteresis, dwell, (h.param 5).getLsbD 0⟩)

/-- The raw format a parameter word names (R49). -/
def rawFormatOf (w : Word) : Option RawFormat :=
  if w = 0 then some .s16 else if w = 1 then some .u16 else if w = 2 then some .s32 else none

/-- The aggregate function a parameter word names (R50). -/
def aggregateFnOf (w : Word) : Option AggregateFn :=
  if w = 0 then some .mean else if w = 1 then some .sum else if w = 2 then some .min
  else if w = 3 then some .max else none

/-- SET_POINT's RAW source (R64 reasons 3 to 5); `limit` is the limit of the input word index. -/
def checkRawSource (h : Held) (limit : Nat) : Except RefusedWith Source :=
  match rawFormatOf (h.param 3) with
  | none => .error (badParam 3)
  | some f =>
    let index := (h.param 2).toNat
    let lo := h.param 4
    let hi := h.param 5
    if limit ≤ index then .error (.badParam, [4, Word.ofNat limit])
    else if lo.toInt < f.least ∨ f.greatest < lo.toInt ∨ hi.toInt < f.least ∨ f.greatest < hi.toInt
        ∨ hi.toInt < lo.toInt then .error (badParam 5)
    else .ok (.raw index f lo hi)

/-- SET_POINT's AGGREGATE source (R64 reasons 6 to 8). -/
def checkAggregateSource (h : Held) (i : Fin 256) : Except RefusedWith Source :=
  let first := (h.param 2).toNat
  let count := (h.param 3).toNat
  if count < 2 ∨ 16 < count then .error (badParam 6)
  else
    match aggregateFnOf (h.param 4) with
    | none => .error (badParam 7)
    | some fn =>
      if i.val ≤ first + count - 1 then .error (badParam 8) else .ok (.aggregate first count fn)

/-- SET_POINT's source by its kind (R64 reasons 2 to 8). -/
def checkSource (h : Held) (i : Fin 256) (limit : Nat) : Except RefusedWith Source :=
  if h.param 1 = 0 then checkRawSource h limit
  else if h.param 1 = 1 then checkAggregateSource h i
  else .error (badParam 2)

/-- SET_POINT's binding fields, words 7 and 8 (R64 reasons 9 to 14, R190). -/
def checkBindings (h : Held) (zsv : Zsv) (source : Source) : Except RefusedWith PointDef :=
  let dir := (h.param 6).toNat / 256 % 256
  let window := (h.param 7).toNat / 256 % 256
  match slotField ((h.param 6).extractLsb' 0 8) with
  | none => .error (badParam 9)
  | some curve =>
    if 1 < dir then .error (badParam 10)
    else if dir = 1 ∧ curve = none then .error (badParam 11)
    else
      match slotField ((h.param 7).extractLsb' 0 8) with
      | none => .error (badParam 12)
      | some zoneSet =>
        if (match zoneSet with | some z => !zsv.sets[z].written | none => false) then .error (badParam 13)
        else if window < 1 ∨ 16 < window then .error (badParam 14)
        else .ok ⟨source, curve, if dir = 1 then .inverse else .forward, zoneSet, window⟩

/-- SET_POINT's binding check against the live body (R65). -/
def checkInvertible (clb : Clb) (d : PointDef) : Except RefusedWith Unit :=
  match d.direction, d.curve with
  | .inverse, some c =>
    match clb.slots[c].body with
    | some b => if b.invertible then .ok () else .error (.notInvertible, [Word.ofNat b.shape.kindCode])
    | none => .ok ()
  | .inverse, none | .forward, _ => .ok ()

/-- The limit of an input word index: the stored input word count, or 1,024 (R64 reason 4). -/
def State.inputLimit (s : State) : Nat :=
  match s.eng.config with
  | some c => c.inputCount
  | none => 1024

/-- SET_POINT's checks, in order (R64, R65). -/
def State.checkSetPoint (s : State) (h : Held) : Except RefusedWith (Fin 256 × PointDef) :=
  match toIndex 256 (h.param 0) with
  | none => .error (badParam 1)
  | some i => do
    let source ← checkSource h i s.inputLimit
    let d ← checkBindings h s.zsv source
    checkInvertible s.clb d
    return (i, d)

/-- ACK_ZONE's parameters (R86). -/
def checkAckZone (h : Held) : Except RefusedWith AckTarget :=
  if h.param 0 = 0 then
    match toIndex 256 (h.param 1) with
    | none => .error (badParam 2)
    | some i => .ok (.point i)
  else if h.param 0 = 1 then
    match toIndex 64 (h.param 1) with
    | none => .error (badParam 3)
    | some z => .ok (.zoneSet z)
  else .error (badParam 1)

/-- LOAD_CURVE's parameter check and window check (R32, R33). R32 gives its three reasons no order; where more than one parameter
is bad the model reports the first in the order of its list: DESIGN CHOICE, log entry 23. -/
def State.checkLoad (s : State) (h : Held) : Except RefusedWith (Fin 64 × Nat × Nat) :=
  match toIndex 64 (h.param 0) with
  | none => .error (badParam 1)
  | some c =>
    let offset := (h.param 1).toNat
    let length := (h.param 2).toNat
    let window := s.eng.windowLength.getD 0
    if offset % 4 ≠ 0 then .error (badParam 2)
    else if length < 6 ∨ 131 < length then .error (badParam 3)
    else if window < offset + 4 * length then .error (.outOfWindow, [Word.ofNat window])
    else .ok (c, offset, length)

/-- The trigger mode a parameter word names (chapter 5.2). -/
def triggerModeOf (w : Word) : Option TriggerMode :=
  if w = 0 then some .timer else if w = 1 then some .command else if w = 2 then some .both else none

/-- The four areas of a configuration, start and end, areas 1 to 4 in order (R160). -/
def Configuration.areas (c : Configuration) : List (Nat × Nat) :=
  [(0, Config.controlBlockBytes),
    (c.inputOffset, c.inputOffset + 4 * c.inputCount),
    (c.bankOffset, c.bankOffset + Config.bankAreaBytes),
    (c.stripOffset, c.stripOffset + 16 * c.stripCapacity)]

/-- Start and end of area `n`, 1 to 4. -/
def Configuration.area (c : Configuration) (n : Nat) : Nat × Nat := c.areas.getD (n - 1) (0, 0)

/-- Each starts before the other ends (R160). -/
def areasOverlap (a b : Nat × Nat) : Bool := decide (a.1 < b.2) && decide (b.1 < a.2)

/-- The first of areas 2, 3, 4 whose offset is not a multiple of 4 (R160 reason 5). -/
def Configuration.misaligned (c : Configuration) : Option Nat :=
  [2, 3, 4].find? (fun n => (c.area n).1 % 4 != 0)

/-- The first of areas 2, 3, 4 whose end exceeds the window length (R160 reason 6). -/
def Configuration.outside (c : Configuration) (window : Nat) : Option Nat :=
  [2, 3, 4].find? (fun n => decide (window < (c.area n).2))

/-- The first overlapping pair of areas in the order of R160 (reason 7). -/
def Configuration.overlap (c : Configuration) : Option (Nat × Nat) :=
  [(1, 2), (1, 3), (1, 4), (2, 3), (2, 4), (3, 4)].find? (fun p => areasOverlap (c.area p.1) (c.area p.2))

/-- CONFIGURE's engine state test and parameter check (R160). -/
def State.checkConfigure (s : State) (h : Held) : Except RefusedWith Configuration :=
  if s.eng.engine ≠ .idle then .error (.wrongState, [Word.ofNat s.eng.engine.code])
  else
    let count := (h.param 1).toNat
    let capacity := (h.param 4).toNat
    let period := (h.param 5).toNat
    let window := s.eng.windowLength.getD 0
    if count < 1 ∨ 1024 < count then .error (badParam 1)
    else if capacity < 16 ∨ 1024 < capacity then .error (badParam 2)
    else if period < 1 ∨ 65535 < period then .error (badParam 3)
    else
      match triggerModeOf (h.param 6) with
      | none => .error (badParam 4)
      | some mode =>
        let c : Configuration :=
          ⟨(h.param 0).toNat, count, (h.param 2).toNat, (h.param 3).toNat, capacity, period, mode⟩
        match c.misaligned with
        | some n => .error (.badParam, [5, Word.ofNat n])
        | none =>
          match c.outside window with
          | some n => .error (.badParam, [6, Word.ofNat n, Word.ofNat window])
          | none =>
            match c.overlap with
            | some p => .error (.badParam, [7, Word.ofNat p.1, Word.ofNat p.2])
            | none => .ok c

/-! ### Work on the held request, by its kind (R151) -/

/-- NOP (R159). -/
def State.workNop (s : State) (h : Held) : State := s.finish h .ok [s.pse.passNumber]

/-- CONFIGURE's effect on BIP: EVR's waiting access is withdrawn, its access in flight marked (R187). -/
def Bip.giveUpEvr (b : Bip) : Bip :=
  { b with
    waitEvr := none
    disregard := b.disregard || (match b.inFlight with | some ⟨.client .evr, _, _⟩ => true | _ => false) }

/-- CONFIGURE's effect on PSE (R114, R128). -/
def Pse.configured (p : Pse) : Pse :=
  { p with
    passNumber := 0
    bankOrder := []
    unconfirmed := none
    overrunCount := 0
    skipFlag := false }

/-- A CONFIGURE that passed its checks takes its effect, and PSE writes the publication word NONE (R161, R128, R142). -/
def State.configureEffect (s : State) (h : Held) (c : Configuration) : State :=
  { s with
    eng := { s.eng with config := none }
    pse := s.pse.configured
    evr := s.evr.discard
    bip := s.bip.giveUpEvr
    rqh := { s.rqh with
      held := some { h with stage := .configureWrite c s.eng.config.isSome s.pse.passNumber } } }.issue
    .pse publicationOffset (.write (publicationWord 3 0))

/-- CONFIGURE (R160, R161). -/
def State.workConfigure (s : State) (h : Held) : State :=
  match s.checkConfigure h with
  | .error r => s.refuse h r
  | .ok c => s.configureEffect h c

/-- The answer to CONFIGURE's publication word write: the configuration is stored and the request finishes (R161). -/
def State.configureStored (s : State) (h : Held) (c : Configuration) (hadConfig : Bool) (oldPass : Word) : State :=
  { s with
    eng := { s.eng with config := some c }
    rqh := { s.rqh with effectTaken := true } }.finish h .ok [Word.ofBool hadConfig, oldPass]

/-- LOAD_CURVE up to the first image read (R32 to R34). -/
def State.workLoad (s : State) (h : Held) : State :=
  match s.checkLoad h with
  | .error r => s.refuse h r
  | .ok (c, offset, length) =>
    { s with
      clb := s.clb.openBuilding c offset length
      rqh := { s.rqh with held := some { h with stage := .imageRead } } }.issue .rqh offset .read

/-- An image word has been read: the next is read, or after the last the image is checked, its blocks are reserved and the
request reaches its apply step (R34 to R39). -/
def State.imageWordRead (s : State) (h : Held) (b : Building) (w : Word) : State :=
  let s1 := { s with clb := s.clb.bufferWord b w }
  let b1 : Building := { b with buffer := b.buffer ++ [w] }
  if b1.buffer.length < b1.length then
    s1.issue .rqh (b1.offset + 4 * b1.buffer.length) .read
  else
    match s1.clb.checkImage b1 with
    | .error r => s1.refuseLoad h r
    | .ok shape => { s1 with clb := s1.clb.reserve b1 shape }.reachApply h (.install b1.target)

/-- DELETE_CURVE (R42). -/
def State.workDelete (s : State) (h : Held) : State :=
  match toIndex 64 (h.param 0) with
  | none => s.finish h .badParam []
  | some c =>
    let slot := s.clb.slots[c]
    if slot.body.isNone then s.finish h .ok [s.clb.freeWord]
    else if 0 < slot.forwardCount ∨ 0 < slot.inverseCount then
      s.finish h .inUse [Word.ofNat slot.forwardCount, Word.ofNat slot.inverseCount]
    else s.reachApply h (.delete c)

/-- QUERY_CURVE (R44). -/
def State.workQuery (s : State) (h : Held) : State :=
  match toIndex 64 (h.param 0) with
  | none => s.finish h .badParam []
  | some c => s.finish h .ok (s.clb.query c)

/-- SET_ZONES (R74). -/
def State.workSetZones (s : State) (h : Held) : State :=
  match checkSetZones h with
  | .error r => s.refuse h r
  | .ok (z, contents) => s.reachApply h (.setZones z contents)

/-- SET_POINT (R64, R65). -/
def State.workSetPoint (s : State) (h : Held) : State :=
  match s.checkSetPoint h with
  | .error r => s.refuse h r
  | .ok (i, d) => s.reachApply h (.setPoint i d)

/-- CLEAR_POINT (R68). -/
def State.workClearPoint (s : State) (h : Held) : State :=
  match toIndex 256 (h.param 0) with
  | none => s.finish h .badParam []
  | some i =>
    if s.ptb.points[i].definition.isNone then s.finish h .ok [0, s.pse.passNumber]
    else s.reachApply h (.clearPoint i)

/-- ACK_ZONE (R86). -/
def State.workAckZone (s : State) (h : Held) : State :=
  match checkAckZone h with
  | .error r => s.refuse h r
  | .ok t => s.reachApply h (.ackZone t)

/-- The five counters are zeroed (R162). -/
def State.zeroCounters (s : State) : State :=
  { s with
    pse := { s.pse with published := 0, skipped := 0, overruns := 0 }
    evr := { s.evr with dropped := 0 }
    rqh := { s.rqh with refused := 0 } }

/-- The five counters and the pass number, in the order READ_COUNTERS reports them (R162). -/
def State.counters (s : State) : List Word :=
  [s.pse.published, s.pse.skipped, s.pse.overruns, s.evr.dropped, s.rqh.refused, s.pse.passNumber]

/-- READ_COUNTERS (R162). -/
def State.workReadCounters (s : State) (h : Held) : State :=
  let words := s.counters
  if (h.param 0).getLsbD 0 then
    let s1 := s.zeroCounters
    { s1 with rqh := { s1.rqh with effectTaken := true } }.finish h .ok words
  else s.finish h .ok words

/-- RQH begins work on the held request by its kind code (R151). -/
def State.beginWork (s : State) (h : Held) : State :=
  match h.kind.toNat with
  | 0 => s.workNop h
  | 1 => s.workConfigure h
  | 2 => s.workLoad h
  | 3 => s.workDelete h
  | 4 => s.workQuery h
  | 5 => s.workSetZones h
  | 6 => s.workSetPoint h
  | 7 => s.workClearPoint h
  | 8 => s.workAckZone h
  | 9 => s.workReadCounters h
  | _ => s.finish h .badKind [h.kind.setWidth 32]

/-- The write of header word 10 is answered: the scan ends and work begins (R149, R151). -/
def State.takeComplete (s : State) (h : Held) : State :=
  { s with rqh := { s.rqh with scan := none } }.beginWork h

end Sys2Proof.Machine
end

