-- ==== Sys2Proof/Machine/Pass.lean ====
section
/-! DEFINITION. The pass engine (chapters 5 and 6): triggers, the work of a pass, banks, publication, the end of a pass. -/
namespace Sys2Proof.Machine

/-! ### Triggers (R97, R98) -/

/-- A pass begins: IN_PASS, the input-changed flag clear, the stamp read issued (R97). -/
def State.beginPass (s : State) : State :=
  { s with pse := { s.pse with pass := some .startStamp, inputChanged := false } }.issue .pse stampOffset .read

/-- A trigger is lost: the overrun count holds at its greatest value, OVERRUNS wraps (R98). -/
def Pse.loseTrigger (p : Pse) : Pse :=
  { p with
    overrunCount := if p.overrunCount = Word.max then Word.max else p.overrunCount + 1
    overruns := p.overruns + 1 }

/-- A trigger is taken (R97, R98). -/
def State.trigger (s : State) : State :=
  if s.pse.pass.isNone then s.beginPass
  else if s.pse.pendingTrigger then { s with pse := s.pse.loseTrigger }
  else { s with pse := { s.pse with pendingTrigger := true } }

/-! ### Banks (R122 to R127) -/

/-- The published bank: the newest of the bank order, NONE when it is empty (R122). -/
def Pse.publishedBank (p : Pse) : Option (Fin 3) := p.bankOrder.getLast?

/-- A bank is taken as published: out of its place, and to the end of the order (R125, R127). -/
def Pse.publishBank (p : Pse) (b : Fin 3) : Pse :=
  { p with bankOrder := p.bankOrder.filter (· != b) ++ [b] }

/-- The candidates for the work bank: not the published bank, not the held one (R124). -/
def Pse.candidates (p : Pse) (hold : Option (Fin 3)) : List (Fin 3) :=
  [0, 1, 2].filter (fun b => some b != p.publishedBank && some b != hold)

/-- The work bank: a candidate never published, the lowest-numbered, else the candidate earliest in the order (R124). -/
def Pse.chooseBank (p : Pse) (hold : Option (Fin 3)) : Fin 3 :=
  match (p.candidates hold).find? (fun b => !p.bankOrder.contains b) with
  | some b => b
  | none => (p.bankOrder.find? (fun b => (p.candidates hold).contains b)).getD 0

/-- The unconfirmed bank is resolved by the publication word read (R125). -/
def Pse.resolve (p : Pse) (w : Word) : Pse :=
  match p.unconfirmed with
  | none => p
  | some (b, n) =>
    if namedBank w = some b ∧ publicationPass w = n.toNat % 2 ^ 30 then
      { p.publishBank b with unconfirmed := none }
    else { p with unconfirmed := none }

/-! ### The end of a pass (R107) -/

/-- Step 3 of the end of a pass: a deferred apply step is taken in the step, or released (R107). The owner's events come
back beside the state. -/
def State.boundaryApply (s : State) (now : Bool) : State × List Event :=
  match s.rqh.held with
  | none => (s, [])
  | some h =>
    match h.stage with
    | .awaitApply e _ =>
      if now then s.takeEdit h e
      else ({ s with rqh := { s.rqh with held := some { h with stage := .awaitApply e true } } }, [])
    | .taken | .configureWrite .. | .imageRead | .finishing .. | .abandonWrite _ => (s, [])

/-- Steps 4 and 5 of the end of a pass: IDLE, or the pending trigger's pass (R107). -/
def State.afterPass (s : State) (halt : Bool) : State :=
  if halt then
    { s with
      eng := { s.eng with engine := .idle }
      pse := { s.pse with pendingTrigger := false, timer := none } }
  else if s.pse.pendingTrigger then { s with pse := { s.pse with pendingTrigger := false } }.beginPass
  else s

/-- The end step of a pass (R107, R109). `last`: the pass just ended carries the number 4,294,967,295. `event` is what
PSE hands to EVR in this step (R106). -/
def State.endPass (s : State) (last : Bool) (event : Option Event) : State :=
  let halt := s.eng.engine == .stopping || last
  let s1 := { s with pse := { s.pse with pass := none } }.scanOccasion
  let (s2, owner) := s1.boundaryApply (s1.pse.pendingTrigger || halt)
  (s2.handTogether event owner).afterPass halt

/-! ### The start of a pass (R99 to R101, R125) -/

/-- The INPUT_BUSY event (R106). -/
def inputBusyEvent (stamp passNumber : Word) : Event := ⟨.inputBusy, 255, stamp, 0, passNumber⟩

/-- The OVERRUN event (R106). -/
def overrunEvent (count passNumber : Word) : Event := ⟨.overrun, 255, count, 0, passNumber⟩

/-- An odd start stamp: the pass is skipped and ends (R100). -/
def State.skipPass (s : State) (stamp : Word) : State :=
  { s with pse := { s.pse with skipped := s.pse.skipped + 1, skipFlag := true } }.endPass false
    (if s.pse.skipFlag then none else some (inputBusyEvent stamp s.pse.passNumber))

/-- PSE reads the hold word (R101, R123). -/
def State.readHold (s : State) : State :=
  { s with pse := { s.pse with pass := some .holdRead } }.issue .pse holdOffset .read

/-- An even start stamp: the pass takes the next number (R101), and an unconfirmed bank is resolved before the hold
word is read (R125). -/
def State.numberPass (s : State) (stamp : Word) : State :=
  let s1 := { s with pse := { s.pse with
    startStamp := stamp
    passNumber := s.pse.passNumber + 1
    activeCount := 0
    runningCheck := checkInitial } }
  if s1.pse.unconfirmed.isSome then
    { s1 with pse := { s1.pse with pass := some .unconfirmedRead } }.issue .pse publicationOffset .read
  else s1.readHold

/-- The start stamp has been read: odd by its lowest bit (R99, R189). -/
def State.startStampRead (s : State) (stamp : Word) : State :=
  if stamp.getLsbD 0 then s.skipPass stamp else s.numberPass stamp

/-- The publication word has been read for the unconfirmed bank (R125). -/
def State.unconfirmedRead (s : State) (w : Word) : State :=
  { s with pse := s.pse.resolve w }.readHold

/-! ### Headers (R119, R121) -/

/-- PSE issues write `k` of the FILLING header: state, pass number, check word 0, active count 0 (R119). -/
def State.fillingStep (s : State) (c : Configuration) (k : Fin 4) : State :=
  { s with pse := { s.pse with pass := some (.fillingHeader k) } }.issue .pse
    (c.bankWord s.pse.workBank k.val)
    (.write (if k = 0 then fillingState else if k = 1 then s.pse.passNumber else 0))

/-- The hold word has been read: the work bank is chosen and its FILLING header begun (R124, R119). -/
def State.holdRead (s : State) (c : Configuration) (w : Word) : State :=
  { s with pse := { s.pse with workBank := s.pse.chooseBank (namedBank w) } }.fillingStep c 0

/-- The bank word and the write `k` of the COMPLETE header: pass number, check word, active count, state last (R121). -/
def Pse.completeWrite (p : Pse) (k : Fin 4) : Nat × AccessOp :=
  match k with
  | 0 => (1, .write p.passNumber)
  | 1 => (2, .write (p.runningCheck.setWidth 32))
  | 2 => (3, .write (Word.ofNat p.activeCount))
  | 3 => (0, .writeState (completeState p.inputChanged))

/-- PSE issues write `k` of the COMPLETE header (R121). -/
def State.completeStep (s : State) (c : Configuration) (k : Fin 4) : State :=
  { s with pse := { s.pse with pass := some (.completeHeader k) } }.issue .pse
    (c.bankWord s.pse.workBank (s.pse.completeWrite k).1) (s.pse.completeWrite k).2

/-! ### Points (R102, R53) -/

/-- PSE issues the value word of a point's entry (R102, R118). -/
def State.writeEntry (s : State) (c : Configuration) (i : Fin 256) (value qualityZone : Word) : State :=
  { s with pse := { s.pse with pass := some (.entryValue i value qualityZone) } }.issue .pse
    (c.bankWord s.pse.workBank (4 + 2 * i.val)) (.write value)

/-- The events of one conversion: zone events first, then the quality event (R53, R62). -/
def conversionEvents (i : Fin 256) (passNumber : Word) (u : WorkingUpdate) (m : ZoneMove) : List Event :=
  m.events.map (zoneEvent i u.point.lastOutput passNumber) ++
    (u.event.map (qualityEvent i u.point.lastOutput passNumber u.quality)).toList

/-- The conversion of an ACTIVE point from its source result on: curve, working-state update, zone step, hand-back of
the entry (R53, R58 to R62). -/
def State.completePoint (s : State) (c : Configuration) (i : Fin 256) (d : PointDef) (src : SourceResult) : State :=
  let u := s.ptb.points[i].update d.window (curveStep s.clb d src)
  let m := s.zsv.evaluate d.zoneSet s.zsv.zones[i] u.point.lastOutput u.quality
  let s1 := { s with
    ptb := ⟨s.ptb.points.set i u.point⟩
    zsv := { s.zsv with zones := s.zsv.zones.set i m.zone } }
  (s1.handAll (conversionEvents i s.pse.passNumber u m)).writeEntry c i u.point.lastOutput
    (qualityZoneWord u.quality m.zone.state)

/-- PSE reaches a point (R53, R54): an UNUSED point gives an entry of zeros; a RAW point inside the input image takes one
read; any other source goes on at once. -/
def State.convertPoint (s : State) (c : Configuration) (i : Fin 256) : State :=
  match s.ptb.points[i].definition with
  | none => s.writeEntry c i 0 (qualityZoneWord .unused .none)
  | some d =>
    match d.source with
    | .raw index _ _ _ =>
      if index < c.inputCount then
        { s with pse := { s.pse with pass := some (.inputRead i) } }.issue .pse (c.inputOffset + 4 * index) .read
      else s.completePoint c i d (.unusable .badRaw)
    | .aggregate first count fn => s.completePoint c i d (aggregateSource fn (s.ptb.members first count))

/-- A RAW point's input word has been read (R54, R55). -/
def State.inputRead (s : State) (c : Configuration) (i : Fin 256) (w : Word) : State :=
  match s.ptb.points[i].definition with
  | some d =>
    match d.source with
    | .raw _ format lo hi => s.completePoint c i d (rawSource format lo hi w)
    | .aggregate .. => s.convertPoint c i
  | none => s.convertPoint c i

/-- A FILLING header write is answered: the next one, or after the fourth the conversion of point 0 (R119). -/
def State.fillingWritten (s : State) (c : Configuration) (k : Fin 4) : State :=
  if h : k.val + 1 < 4 then s.fillingStep c ⟨k.val + 1, h⟩ else s.convertPoint c 0

/-- The value word of an entry is answered: the quality-and-zone word is written (R102). -/
def State.entryValueWritten (s : State) (c : Configuration) (i : Fin 256) (value qualityZone : Word) : State :=
  { s with pse := { s.pse with pass := some (.entryQuality i value qualityZone) } }.issue .pse
    (c.bankWord s.pse.workBank (5 + 2 * i.val)) (.write qualityZone)

/-- An entry is folded into the running check word, and an ACTIVE point counted (R102, R120). -/
def Pse.foldEntry (p : Pse) (active : Bool) (value qualityZone : Word) : Pse :=
  { p with
    runningCheck := checkWord (checkWord p.runningCheck value) qualityZone
    activeCount := if active then p.activeCount + 1 else p.activeCount }

/-- Both words of an entry are answered: it is folded in, and the next point is converted, or the end stamp is read
(R102, R103, R120). -/
def State.entryWritten (s : State) (c : Configuration) (i : Fin 256) (value qualityZone : Word) : State :=
  let s1 := { s with pse := s.pse.foldEntry s.ptb.points[i].definition.isSome value qualityZone }
  if h : i.val + 1 < 256 then s1.convertPoint c ⟨i.val + 1, h⟩
  else { s1 with pse := { s1.pse with pass := some .endStamp } }.issue .pse stampOffset .read

/-! ### Completion and publication (R103 to R105, R126, R127) -/

/-- The end stamp has been read: the input-changed flag, and the COMPLETE header is begun (R103, R104). -/
def State.endStampRead (s : State) (c : Configuration) (stamp : Word) : State :=
  { s with pse := { s.pse with
    inputChanged := if stamp = s.pse.startStamp then s.pse.inputChanged else true } }.completeStep c 0

/-- PSE issues the publication word write and records the bank as unconfirmed (R104, R122, R126). -/
def State.writePublication (s : State) : State :=
  { s with pse := { s.pse with
      pass := some .publicationWrite
      unconfirmed := some (s.pse.workBank, s.pse.passNumber) } }.issue .pse publicationOffset
    (.write (publicationWord s.pse.workBank.val s.pse.passNumber))

/-- A COMPLETE header write is answered (R121). -/
def State.completeWritten (s : State) (c : Configuration) (k : Fin 4) : State :=
  if h : k.val + 1 < 4 then s.completeStep c ⟨k.val + 1, h⟩ else s.writePublication

/-- PSE's own items at a publication (R105 items 1 to 4, R127). -/
def Pse.afterPublication (p : Pse) : Pse :=
  { p.publishBank p.workBank with
    unconfirmed := none
    overrunCount := 0
    skipFlag := false
    published := p.published + 1 }

/-- The publication word write is answered: publication, then the end of the pass (R105). -/
def State.publish (s : State) : State :=
  ({ s with pse := s.pse.afterPublication }.raise .passDone).endPass (s.pse.passNumber == Word.max)
    (if s.pse.overrunCount = 0 then none else some (overrunEvent s.pse.overrunCount s.pse.passNumber))

end Sys2Proof.Machine
end

