-- ==== Sys2Proof/Machine/Ops.lean ====
section
/-! DEFINITION. The operations that join the blocks: fault entry (R178, R179), the failure of an access, the grant of
the next access (R184, R186), the answers to an access, attach, and the resets. -/
namespace Sys2Proof.Machine

/-! ### Fault entry -/

/-- PSE at fault entry (R111, R115). -/
def Pse.abandon (p : Pse) : Pse :=
  { p with
    pass := none
    pendingTrigger := false
    overrunCount := 0
    timer := none
    inputChanged := false
    activeCount := 0
    runningCheck := 0 }

/-- Fault entry completes: FAULT is raised (R179). -/
def State.completeFaultEntry (s : State) : State :=
  { s with eng := { s.eng with faultEntry := false } }.raise .fault

/-- RQH issues a word of the abandon-write: word 9 with ABORTED, then word 0 with REFUSED (R156). -/
def State.abandonStep (s : State) (h : Held) (word0 : Bool) : State :=
  { s with rqh := { s.rqh with held := some { h with stage := .abandonWrite word0 } } }.issue .rqh
    (slotOffset h.slot (if word0 then 0 else 9))
    (.write (if word0 then headWord h.ticket h.kind .refused else Word.ofNat ResultCode.aborted.code))

/-- RQH at fault entry: scan and flags end, and the held request is abandoned, with the abandon-write when its effect
has not been taken (R155, R156). Without it fault entry completes in the same step (R178). -/
def State.abandonHeld (s : State) : State :=
  let s1 := { s with rqh := { s.rqh with
    held := none, scan := none, scanRequested := false, effectTaken := false } }
  match s.rqh.held with
  | none => s1.completeFaultEntry
  | some h => if s.rqh.effectTaken then s1.completeFaultEntry else s1.abandonStep h false

/-- Fault entry (R178): the record is filled, PSE, EVR, RQH and CLB end their work, BIP withdraws what waits (R187). -/
def State.enterFault (s : State) (kind : FaultKind) (c : Client) (offset : Nat) : State :=
  { s with
    eng := { s.eng with engine := .faulted, faultEntry := true, faultRecord := some ⟨kind, c, offset⟩ }
    pse := s.pse.abandon
    evr := s.evr.endAtFault
    clb := s.clb.discard
    bip := s.bip.withdrawAll }.abandonHeld

/-- A failed abandon-write: the second-fault flag is set, the abandon-write ends and fault entry completes (R179). -/
def State.secondFault (s : State) : State :=
  { s with
    eng := { s.eng with secondFault := true }
    rqh := { s.rqh with held := none } }.completeFaultEntry

/-- A word of the abandon-write is answered (R156, R158, R179). -/
def State.abandonWritten (s : State) (h : Held) (word0 : Bool) : State :=
  if word0 then
    ({ s with rqh := { s.rqh with held := none, refused := s.rqh.refused + 1 } }.raise .reqDone).completeFaultEntry
  else s.abandonStep h true

/-! ### Attach (R166, R167) -/

/-- The attach fails: reason, last refusal ATTACH, COMMAND_REFUSED, DETACHED (R167). -/
def State.attachFailed (s : State) (reason : AttachReason) : State :=
  { s with eng := { s.eng with
    engine := .detached
    attachReason := reason
    lastRefusal := 1
    attachWords := [] } }.raise .commandRefused

/-- The first test of the header words that fails (R167). -/
def attachFault (wbase w0 w1 w2 : Word) : Option AttachReason :=
  if w0 ≠ Config.headerSignature then some .signature
  else if w1 ≠ 1 then some .version
  else if w2.toNat % 4 ≠ 0 ∨ w2.toNat < Config.controlBlockBytes ∨ Config.maxWindowBytes < w2.toNat
      ∨ 2 ^ 32 < wbase.toNat + w2.toNat then some .length
  else none

/-- The attach succeeds: the window length is accepted, the expected ticket is the header's first ticket (R167, R157). -/
def State.attached (s : State) (w2 w3 : Word) : State :=
  { s with
    eng := { s.eng with engine := .idle, windowLength := some w2.toNat, attachWords := [] }
    rqh := { s.rqh with expectedTicket := w3.setWidth 16, waitingForTicket := false } }

/-- An attach read is answered: the next read, or after the fourth the tests (R166, R167). -/
def State.attachWordRead (s : State) (w : Word) : State :=
  let words := s.eng.attachWords ++ [w]
  if words.length < 4 then
    { s with eng := { s.eng with attachWords := words } }.issueAttachRead (4 * words.length)
  else
    match attachFault s.eng.wbase (words.getD 0 0) (words.getD 1 0) (words.getD 2 0) with
    | some reason => s.attachFailed reason
    | none => s.attached (words.getD 2 0) (words.getD 3 0)

/-! ### Failed accesses and grants -/

/-- BUS_ERROR's result words: the failed word's offset, and 1 for an error answer or 2 for a timeout (R34). -/
def imageFailure (kind : FaultKind) (offset : Nat) : RefusedWith :=
  (.busError, [Word.ofNat offset, match kind with | .busError => 1 | .timeout => 2])

/-- What a client does with the failure of its access (R185): an attach read fails the attach, an image read refuses its
LOAD_CURVE, an abandon-write sets the second-fault flag, any other faults the engine. -/
def State.accessFailed (s : State) (kind : FaultKind) (a : Access) : State :=
  match a.owner with
  | .eng => s.attachFailed .busError
  | .client .pse => s.enterFault kind .pse a.offset
  | .client .evr => s.enterFault kind .evr a.offset
  | .client .rqh =>
    match s.rqh.held with
    | none => s.enterFault kind .rqh a.offset
    | some h =>
      match h.stage with
      | .imageRead => s.refuseLoad h (imageFailure kind a.offset)
      | .abandonWrite _ => s.secondFault
      | .taken | .configureWrite .. | .awaitApply .. | .finishing .. => s.enterFault kind .rqh a.offset

/-- Grants while BIP has no access in flight (R186). An access that fails the comparison is handed back as an error
answer in this step (R184), which may lead to another access; `fuel` bounds how often. -/
def State.grantNext : Nat → State → State
  | 0, s => s
  | fuel + 1, s =>
    match s.bip.inFlight with
    | some _ => s
    | none =>
      match s.bip.next with
      | none => s
      | some a =>
        if s.admits a then s.grant a
        else State.grantNext fuel ({ s with bip := s.bip.unwait a }.accessFailed .busError a)

/-- The end of every step that ends or issues an access: the grant of R186. In one step at most an image read, a
finishing write and an abandon-write are handed back in turn, so that five rounds are enough. -/
def State.settle (s : State) : State := State.grantNext 5 s

/-- Two accesses were issued together (R186): either may be taken first, a free value (log entry 7). The search
then starts at the client taken first. -/
def State.settleTogether (s : State) : State :=
  if s.bip.inFlight.isNone ∧ s.bip.waitRqh.isSome ∧ s.bip.waitEvr.isSome then
    { s with
      freeIndex := s.freeIndex + 1
      bip := { s.bip with
        lastGranted := if Config.evrTakenFirst s.freeIndex then .pse else .evr } }.settle
  else s.settle

/-! ### Answers to the access in flight (R183, R185) -/

/-- The answer to a read of owner `o`: the word goes to the client, whose next work is `k`; an error answer is a failure.
An answer for which no access of `o` is in flight is disregarded (R185; log entry 1). -/
def State.onRead (s : State) (o : Owner) (answer : ReadAnswer) (k : State → Word → State) : State :=
  match s.awaited o with
  | none => s
  | some a =>
    match answer with
    | .word w => (k (s.endInFlight.placeWord a.offset w) w).settle
    | .error => ((s.endInFlight.failedAccess a).accessFailed .busError a).settle

/-- The answer to a write of owner `o`: the word stands in the window and the client goes on with `k`; an error answer is
a failure. -/
def State.onWrite (s : State) (o : Owner) (answer : WriteAnswer) (k : State → State) : State :=
  match s.awaited o with
  | none => s
  | some a =>
    match answer with
    | .done => (k (s.endInFlight.completedAccess a)).settle
    | .error => ((s.endInFlight.failedAccess a).accessFailed .busError a).settle

/-- 64 µs without an answer (R185). With no access in flight the expiry has no effect; a disregarded access ends and its
timeout is no fault (R187). -/
def State.timeout (s : State) : State :=
  match s.bip.inFlight with
  | none => s
  | some a =>
    if s.bip.disregard then (s.endInFlight.failedAccess a).settle
    else ((s.endInFlight.failedAccess a).accessFailed .timeout a).settle

/-- An access with the disregard mark ends; its outcome goes to no client (R182). -/
def State.disregardedEnd (s : State) (how : DisregardedEnd) : State :=
  match s.bip.inFlight with
  | none => s
  | some a =>
    if s.bip.disregard then
      match how with
      | .answered => (s.endInFlight.completedAccess a).settle
      | .error | .timeout => (s.endInFlight.failedAccess a).settle
    else s

/-! ### Commands turned away, and resets -/

/-- A refused command or WBASE write: last refusal and COMMAND_REFUSED (R164, R174). -/
def State.refuseCommand (s : State) (code : BitVec 8) : State :=
  { s with eng := { s.eng with lastRefusal := code } }.raise .commandRefused

/-- ENGINE_RESET and DETACH on ZSV (R91). -/
def Zsv.restartAll (zsv : Zsv) (ptb : Ptb) : Zsv :=
  { zsv with zones := tabulate 256 (fun i => PointZone.start ptb.points[i].definition) }

/-- ENGINE_RESET on ENG (R171, R181): WBASE and MASK are kept. -/
def Eng.reset (e : Eng) : Eng := { Eng.powerOn with wbase := e.wbase, mask := e.mask }

/-- ENGINE_RESET on PSE (R115, R130). The start stamp and the work bank have no value there and are kept (log entry 13). -/
def Pse.reset (p : Pse) : Pse := { Pse.powerOn with startStamp := p.startStamp, workBank := p.workBank }

/-- ENGINE_RESET (R171): every block takes its ENGINE_RESET values in one step. -/
def State.engineReset (s : State) : State :=
  { s with
    eng := s.eng.reset
    rqh := Rqh.powerOn
    clb := s.clb.discard
    ptb := s.ptb.restartAll
    zsv := s.zsv.restartAll s.ptb
    pse := s.pse.reset
    evr := Evr.powerOn
    bip := { s.bip.giveUp with lastGranted := .evr } }

/-- DETACH on PSE (R115, R130): the counters are kept. -/
def Pse.detach (p : Pse) : Pse :=
  { p.reset with published := p.published, skipped := p.skipped, overruns := p.overruns }

/-- DETACH on RQH (R157): REFUSED is kept. -/
def Rqh.detach (r : Rqh) : Rqh := { Rqh.powerOn with refused := r.refused }

/-- DETACH accepted in IDLE (R168). It may come while a released edit still waits; the edit, and the body an installation has
reserved, are given up with the held request (R46, R157), which R41 does not foresee: DEDUCED, log entry 24. -/
def State.detach (s : State) : State :=
  { s with
    eng := { s.eng with engine := .detached, config := none, windowLength := none }
    rqh := s.rqh.detach
    clb := s.clb.discard
    ptb := s.ptb.restartAll
    zsv := s.zsv.restartAll s.ptb
    pse := s.pse.detach
    evr := s.evr.discard
    bip := s.bip.giveUp }

/-- RSTN (R181 and the power-on values of every block). The window is the host's memory and is kept; whether a write that
was on the bus landed is a free value (log entry 5). The queue of commands waits outside the part and is kept. -/
def State.powerOn (s : State) : State :=
  let s1 := match s.bip.inFlight with
    | none => s
    | some a => s.interruptedAccess a
  { State.reset with window := s1.window, freeIndex := s1.freeIndex, pending := s.pending }

end Sys2Proof.Machine
end

