-- ==== Sys2Proof/Machine/BusEvents.lean ====
section
/-! DEFINITION. Events that time and the bus bring: the pass timer's expiry, the bus timeout, the end of a disregarded access,
the attach reads' answers (R95, R185, R182, R167). -/
namespace Sys2Proof.Machine

/-- PASS_TIMER_EXPIRY (R95): one trigger; a stopped timer gives no expiries, so that without a running timer nothing
happens (log entry 1). -/
def execPassTimerExpiry (s : State) : Host.Outcome State Fault Refusal :=
  .next (match s.pse.timer with
    | some _ => s.trigger.settle
    | none => s)

/-- BUS_TIMEOUT (R185). -/
def execBusTimeout (s : State) : Host.Outcome State Fault Refusal := .next s.timeout

/-- DISREGARDED_ACCESS_END (R182). -/
def execDisregardedAccessEnd (how : DisregardedEnd) (s : State) : Host.Outcome State Fault Refusal :=
  .next (s.disregardedEnd how)

/-- ATTACH_READ_ANSWER (R167). -/
def execAttachReadAnswer (answer : ReadAnswer) (s : State) : Host.Outcome State Fault Refusal :=
  .next (s.onRead .eng answer State.attachWordRead)

end Sys2Proof.Machine
end

