-- ==== Sys2Proof/Machine/Commands.lean ====
section
/-! DEFINITION. The RSTN pin and the commands written to CMD (R164 to R172, R181). -/
namespace Sys2Proof.Machine

/-- POWER_ON (R181). -/
def execPowerOn (s : State) : Host.Outcome State Fault Refusal := .next s.powerOn

/-- ATTACH (R166): accepted in DETACHED; the first of four header reads is issued. -/
def State.takeAttach (s : State) : State :=
  match s.eng.engine with
  | .detached =>
    ({ s with eng := { s.eng with engine := .attaching, attachReason := .none, attachWords := [] } }.issueAttachRead
      0).settle
  | .attaching | .idle | .running | .stopping | .faulted => s.refuseCommand 1

/-- DETACH (R168): accepted in IDLE. -/
def State.takeDetach (s : State) : State :=
  match s.eng.engine with
  | .idle => s.detach
  | .detached | .attaching | .running | .stopping | .faulted => s.refuseCommand 2

/-- The timer a RUN starts: running with the configured period in mode TIMER or BOTH (R95). -/
def Configuration.startedTimer (c : Configuration) : Option Nat :=
  match c.mode with
  | .timer | .both => some c.period
  | .command => none

/-- RUN (R169): accepted in IDLE with a configuration stored and a pass number below 4,294,967,295. -/
def State.takeRun (s : State) : State :=
  match s.eng.engine, s.eng.config with
  | .idle, some c =>
    if s.pse.passNumber = Word.max then s.refuseCommand 3
    else
      { s with
        eng := { s.eng with engine := .running }
        pse := { s.pse with timer := c.startedTimer } }
  | .idle, none | .detached, _ | .attaching, _ | .running, _ | .stopping, _ | .faulted, _ => s.refuseCommand 3

/-- STOP (R110): accepted in RUNNING; the timer stops, the pending trigger is discarded. -/
def State.takeStop (s : State) : State :=
  match s.eng.engine with
  | .running =>
    { s with
      eng := { s.eng with engine := if s.pse.pass.isNone then .idle else .stopping }
      pse := { s.pse with timer := none, pendingTrigger := false } }
  | .detached | .attaching | .idle | .stopping | .faulted => s.refuseCommand 4

/-- ATTEND (R165, R147): accepted in IDLE, RUNNING and STOPPING; one scan occasion to RQH. -/
def State.takeAttend (s : State) : State :=
  match s.eng.engine with
  | .idle | .running | .stopping => s.scanOccasion.settle
  | .detached | .attaching | .faulted => s.refuseCommand 5

/-- PASS gives triggers in the modes COMMAND and BOTH (chapter 5.2). -/
def Configuration.takesPass (c : Configuration) : Bool :=
  match c.mode with
  | .command | .both => true
  | .timer => false

/-- PASS (R96): accepted in RUNNING with trigger mode COMMAND or BOTH; one trigger to PSE. -/
def State.takePass (s : State) : State :=
  match s.eng.engine, s.eng.config with
  | .running, some c => if c.takesPass then s.trigger.settle else s.refuseCommand 6
  | .running, none | .detached, _ | .attaching, _ | .idle, _ | .stopping, _ | .faulted, _ => s.refuseCommand 6

/-- CLEAR (R170): accepted in FAULTED once fault entry is complete. -/
def State.takeClear (s : State) : State :=
  match s.eng.engine with
  | .faulted =>
    if s.eng.faultEntry then s.refuseCommand 7
    else { s with eng := { s.eng with engine := .idle, secondFault := false } }
  | .detached | .attaching | .idle | .running | .stopping => s.refuseCommand 7

/-- ATTACH, CMD code 1; the word's upper 24 bits are disregarded (R164), here and below. -/
def execAttach (_upper : BitVec 24) (s : State) : Host.Outcome State Fault Refusal := .next s.takeAttach

/-- DETACH, CMD code 2. -/
def execDetach (_upper : BitVec 24) (s : State) : Host.Outcome State Fault Refusal := .next s.takeDetach

/-- RUN, CMD code 3. -/
def execRun (_upper : BitVec 24) (s : State) : Host.Outcome State Fault Refusal := .next s.takeRun

/-- STOP, CMD code 4. -/
def execStop (_upper : BitVec 24) (s : State) : Host.Outcome State Fault Refusal := .next s.takeStop

/-- ATTEND, CMD code 5. -/
def execAttend (_upper : BitVec 24) (s : State) : Host.Outcome State Fault Refusal := .next s.takeAttend

/-- PASS, CMD code 6. -/
def execPass (_upper : BitVec 24) (s : State) : Host.Outcome State Fault Refusal := .next s.takePass

/-- CLEAR, CMD code 7. -/
def execClear (_upper : BitVec 24) (s : State) : Host.Outcome State Fault Refusal := .next s.takeClear

/-- ENGINE_RESET, CMD code 8: accepted in every state (R171). -/
def execEngineReset (_upper : BitVec 24) (s : State) : Host.Outcome State Fault Refusal := .next s.engineReset

/-- What a word written to CMD does: the code in its lowest eight bits picks the command, and a code of 0 or 9 to 255 is refused
with 255 (R164). -/
def State.takeCommandWord (s : State) (written : Word) : State :=
  match Instr.ofCommandWord written with
  | .attach _ => s.takeAttach
  | .detach _ => s.takeDetach
  | .run _ => s.takeRun
  | .stop _ => s.takeStop
  | .attend _ => s.takeAttend
  | .pass _ => s.takePass
  | .clear _ => s.takeClear
  | .engineReset _ => s.engineReset
  | _ => s.refuseCommand 255

/-- UNKNOWN_COMMAND_CODE: a CMD write with code 0 or 9 to 255 is refused with 255 (R164). A word whose code is 1 to 8
is not well formed here; it is the CMD write it spells (log entry 3). -/
def execUnknownCommandCode (written : Word) (s : State) : Host.Outcome State Fault Refusal :=
  .next (s.takeCommandWord written)

end Sys2Proof.Machine
end

