-- ==== Sys2Proof/Machine/PassAnswers.lean ====
section
/-! DEFINITION. The answers to PSE's accesses in a pass, and the released apply step (chapters 5 and 6). Each is taken in
the stage whose access it answers; in another stage it answers nothing and is disregarded (log entry 1). -/
namespace Sys2Proof.Machine

/-- START_STAMP_READ_ANSWER (R99). -/
def execStartStampReadAnswer (answer : ReadAnswer) (s : State) : Host.Outcome State Fault Refusal :=
  .next (match s.pse.pass with
    | some .startStamp => s.onRead (.client .pse) answer State.startStampRead
    | _ => s)

/-- UNCONFIRMED_BANK_READ_ANSWER (R125). -/
def execUnconfirmedBankReadAnswer (answer : ReadAnswer) (s : State) : Host.Outcome State Fault Refusal :=
  .next (match s.pse.pass with
    | some .unconfirmedRead => s.onRead (.client .pse) answer State.unconfirmedRead
    | _ => s)

/-- HOLD_WORD_READ_ANSWER (R124). -/
def execHoldWordReadAnswer (answer : ReadAnswer) (s : State) : Host.Outcome State Fault Refusal :=
  .next (match s.pse.pass, s.eng.config with
    | some .holdRead, some c => s.onRead (.client .pse) answer (fun s w => s.holdRead c w)
    | _, _ => s)

/-- FILLING_HEADER_WRITE_ANSWER (R119). -/
def execFillingHeaderWriteAnswer (answer : WriteAnswer) (s : State) : Host.Outcome State Fault Refusal :=
  .next (match s.pse.pass, s.eng.config with
    | some (.fillingHeader k), some c => s.onWrite (.client .pse) answer (fun s => s.fillingWritten c k)
    | _, _ => s)

/-- INPUT_READ_ANSWER (R54). -/
def execInputReadAnswer (answer : ReadAnswer) (s : State) : Host.Outcome State Fault Refusal :=
  .next (match s.pse.pass, s.eng.config with
    | some (.inputRead i), some c => s.onRead (.client .pse) answer (fun s w => s.inputRead c i w)
    | _, _ => s)

/-- ENTRY_WRITE_ANSWER (R102). -/
def execEntryWriteAnswer (answer : WriteAnswer) (s : State) : Host.Outcome State Fault Refusal :=
  .next (match s.pse.pass, s.eng.config with
    | some (.entryValue i v qz), some c => s.onWrite (.client .pse) answer (fun s => s.entryValueWritten c i v qz)
    | some (.entryQuality i v qz), some c => s.onWrite (.client .pse) answer (fun s => s.entryWritten c i v qz)
    | _, _ => s)

/-- END_STAMP_READ_ANSWER (R103). -/
def execEndStampReadAnswer (answer : ReadAnswer) (s : State) : Host.Outcome State Fault Refusal :=
  .next (match s.pse.pass, s.eng.config with
    | some .endStamp, some c => s.onRead (.client .pse) answer (fun s w => s.endStampRead c w)
    | _, _ => s)

/-- COMPLETE_HEADER_WRITE_ANSWER (R121). -/
def execCompleteHeaderWriteAnswer (answer : WriteAnswer) (s : State) : Host.Outcome State Fault Refusal :=
  .next (match s.pse.pass, s.eng.config with
    | some (.completeHeader k), some c => s.onWrite (.client .pse) answer (fun s => s.completeWritten c k)
    | _, _ => s)

/-- PUBLICATION_WORD_WRITE_ANSWER (R105). -/
def execPublicationWordWriteAnswer (answer : WriteAnswer) (s : State) : Host.Outcome State Fault Refusal :=
  .next (match s.pse.pass with
    | some .publicationWrite => s.onWrite (.client .pse) answer State.publish
    | _ => s)

/-- RELEASED_APPLY_STEP (R108): taken whole in NO_PASS; held again in IN_PASS. -/
def execReleasedApplyStep (s : State) : Host.Outcome State Fault Refusal :=
  .next (match s.rqh.held with
    | some ⟨slot, kind, ticket, params, .awaitApply e true⟩ =>
      let h : Held := ⟨slot, kind, ticket, params, .awaitApply e true⟩
      if s.pse.pass.isSome then
        { s with rqh := { s.rqh with held := some { h with stage := .awaitApply e false } } }
      else (s.applyNow h e).settleTogether
    | _ => s)

end Sys2Proof.Machine
end

