-- ==== Sys2Proof/Machine/RecorderAnswers.lean ====
section
/-! DEFINITION. The answers to EVR's accesses (chapter 7). Each is taken in the stage whose access it answers (log entry 1). -/
namespace Sys2Proof.Machine

/-- ACK_WORD_READ_ANSWER (R137). -/
def execAckWordReadAnswer (answer : ReadAnswer) (s : State) : Host.Outcome State Fault Refusal :=
  .next (match s.evr.work, s.eng.config with
    | .readingAck lostFirst e, some c =>
      s.onRead (.client .evr) answer (fun s w => s.ackWordRead c lostFirst e w)
    | _, _ => s)

/-- RECORD_WORD_WRITE_ANSWER (R135): the next word of the record, and after word 0 the high-water word. -/
def execRecordWordWriteAnswer (answer : WriteAnswer) (s : State) : Host.Outcome State Fault Refusal :=
  .next (match s.evr.work, s.eng.config with
    | .writing seq e 0 behind, some c => s.onWrite (.client .evr) answer (fun s => s.recordStep c seq e 1 behind)
    | .writing seq e 1 behind, some c => s.onWrite (.client .evr) answer (fun s => s.recordStep c seq e 2 behind)
    | .writing seq e 2 behind, some c => s.onWrite (.client .evr) answer (fun s => s.recordStep c seq e 3 behind)
    | .writing seq e 3 behind, some c =>
      s.onWrite (.client .evr) answer (fun s =>
        { s with evr := s.evr.recordWritten seq e }.recordStep c seq e 4 behind)
    | _, _ => s)

/-- HIGH_WATER_WRITE_ANSWER (R135). -/
def execHighWaterWriteAnswer (answer : WriteAnswer) (s : State) : Host.Outcome State Fault Refusal :=
  .next (match s.evr.work, s.eng.config with
    | .writing _ _ 4 behind, some c => s.onWrite (.client .evr) answer (fun s => s.recordFinished c behind)
    | _, _ => s)

end Sys2Proof.Machine
end

