-- ==== Sys2Proof/Machine/Registers.lean ====
section
/-! DEFINITION. The register window: the registers' byte offsets (R188), the command a write at an offset is and how it joins the queue, and the meanings of
writes to the registers but CMD (R173, R174, R176, R177). -/
namespace Sys2Proof.Machine

/-! ### Offsets -/

/-- The byte offset of a register in the register window (R188). -/
def Register.offset : Register → Nat
  | .ident => 0x00
  | .wbase => 0x04
  | .cmd => 0x08
  | .stat => 0x0C
  | .cause => 0x10
  | .mask => 0x14
  | .faddr => 0x18

/-- The register at a byte offset of the register window (R188); the seven registers are all there is. -/
def registerAt (offset : Nat) : Option Register :=
  [Register.ident, .wbase, .cmd, .stat, .cause, .mask, .faddr].find? (fun r => r.offset == offset)

/-- The command that a write of a word to a register is (R164, R173, R174, R176, R177). -/
def Register.writeCommand (r : Register) (w : Word) : Instr :=
  match r with
  | .ident => .registerWriteDisregarded .ident w
  | .wbase => .wbaseWrite w
  | .cmd => .ofCommandWord w
  | .stat => .registerWriteDisregarded .stat w
  | .cause => .causeWrite w
  | .mask => .maskWrite w
  | .faddr => .registerWriteDisregarded .faddr w

/-- The word a read at a byte offset of the register window returns (R173, R188). -/
def State.readAt (s : State) (offset : Nat) : Option Word := (registerAt offset).map s.readRegister

/-- The command that a write at a byte offset of the register window is (R188). -/
def writeCommandAt (offset : Nat) (w : Word) : Option Instr := (registerAt offset).map (fun r => r.writeCommand w)

/-- The host writes a word at a byte offset of the register window: the command it is (R173, R188) joins the end of the queue, for a
step to take (log entry 12). At an offset that has no register nothing is written (DESIGN CHOICE, log entry 26). -/
def State.registerWrite (s : State) (offset : Nat) (w : Word) : State :=
  { s with pending := s.pending ++ (writeCommandAt offset w).toList }

/-! ### Meanings of writes -/

/-- WBASE_WRITE (R174): stored in DETACHED with its lowest two bits cleared, refused with 16 in any other state. -/
def execWbaseWrite (written : Word) (s : State) : Host.Outcome State Fault Refusal :=
  .next (match s.eng.engine with
    | .detached => { s with eng := { s.eng with wbase := written &&& 0xFFFFFFFC } }
    | .attaching | .idle | .running | .stopping | .faulted => s.refuseCommand 16)

/-- CAUSE_WRITE (R176): each cause bit written as 1 is cleared. -/
def execCauseWrite (written : Word) (s : State) : Host.Outcome State Fault Refusal :=
  .next { s with eng := { s.eng with cause := s.eng.cause &&& ~~~(written.setWidth 5) } }

/-- MASK_WRITE (R177): the five enable bits are stored. -/
def execMaskWrite (written : Word) (s : State) : Host.Outcome State Fault Refusal :=
  .next { s with eng := { s.eng with mask := written.setWidth 5 } }

/-- REGISTER_WRITE_DISREGARDED (R173): a write to IDENT, STAT or FADDR changes nothing and raises no cause. -/
def execRegisterWriteDisregarded (_register : ReadOnlyRegister) (_written : Word) (s : State) :
    Host.Outcome State Fault Refusal := .next s

end Sys2Proof.Machine
end

