-- ==== Sys2Proof/Machine/RequestAnswers.lean ====
section
/-! DEFINITION. The answers to RQH's accesses and to CONFIGURE's publication word write (chapter 8). Each is taken in the
stage whose access it answers (log entry 1). -/
namespace Sys2Proof.Machine

/-- SCAN_READ_ANSWER (R148). -/
def execScanReadAnswer (answer : ReadAnswer) (s : State) : Host.Outcome State Fault Refusal :=
  .next (match s.rqh.scan with
    | some (.reading k heads) => s.onRead (.client .rqh) answer (fun s w => s.slotRead k heads w)
    | _ => s)

/-- STALE_REFUSAL_WRITE_ANSWER (R148). -/
def execStaleRefusalWriteAnswer (answer : WriteAnswer) (s : State) : Host.Outcome State Fault Refusal :=
  .next (match s.rqh.scan with
    | some (.staleWrite heads slot k) => s.onWrite (.client .rqh) answer (fun s => s.staleWritten heads slot k)
    | _ => s)

/-- PARAMETER_READ_ANSWER (R149). -/
def execParameterReadAnswer (answer : ReadAnswer) (s : State) : Host.Outcome State Fault Refusal :=
  .next (match s.rqh.scan with
    | some (.paramRead slot head k params) =>
      s.onRead (.client .rqh) answer (fun s w => s.parameterRead slot head k params w)
    | _ => s)

/-- TAKEN_WRITE_ANSWER (R149). -/
def execTakenWriteAnswer (answer : WriteAnswer) (s : State) : Host.Outcome State Fault Refusal :=
  .next (match s.rqh.scan with
    | some (.takenWrite slot head params) =>
      s.onWrite (.client .rqh) answer (fun s => s.requestTaken slot head params)
    | _ => s)

/-- LAST_TAKEN_TICKET_WRITE_ANSWER (R151). -/
def execLastTakenTicketWriteAnswer (answer : WriteAnswer) (s : State) : Host.Outcome State Fault Refusal :=
  .next (match s.rqh.scan, s.rqh.held with
    | some .ticketWrite, some h => s.onWrite (.client .rqh) answer (fun s => s.takeComplete h)
    | _, _ => s)

/-- CONFIGURE_PUBLICATION_WRITE_ANSWER (R161). -/
def execConfigurePublicationWriteAnswer (answer : WriteAnswer) (s : State) : Host.Outcome State Fault Refusal :=
  .next (match s.rqh.held with
    | some ⟨slot, kind, ticket, params, .configureWrite c had old⟩ =>
      s.onWrite (.client .pse) answer (fun s =>
        s.configureStored ⟨slot, kind, ticket, params, .configureWrite c had old⟩ c had old)
    | _ => s)

/-- IMAGE_READ_ANSWER (R34). -/
def execImageReadAnswer (answer : ReadAnswer) (s : State) : Host.Outcome State Fault Refusal :=
  .next (match s.rqh.held, s.clb.building with
    | some ⟨slot, kind, ticket, params, .imageRead⟩, some b =>
      s.onRead (.client .rqh) answer (fun s w =>
        s.imageWordRead ⟨slot, kind, ticket, params, .imageRead⟩ b w)
    | _, _ => s)

/-- FINISHING_WRITE_ANSWER (R153). -/
def execFinishingWriteAnswer (answer : WriteAnswer) (s : State) : Host.Outcome State Fault Refusal :=
  .next (match s.rqh.held with
    | some ⟨slot, kind, ticket, params, .finishing code results k⟩ =>
      s.onWrite (.client .rqh) answer (fun s =>
        s.finishingWritten ⟨slot, kind, ticket, params, .finishing code results k⟩ code results k)
    | _ => s)

/-- ABANDON_WRITE_ANSWER (R156). -/
def execAbandonWriteAnswer (answer : WriteAnswer) (s : State) : Host.Outcome State Fault Refusal :=
  .next (match s.rqh.held with
    | some ⟨slot, kind, ticket, params, .abandonWrite word0⟩ =>
      s.onWrite (.client .rqh) answer (fun s =>
        s.abandonWritten ⟨slot, kind, ticket, params, .abandonWrite word0⟩ word0)
    | _ => s)

end Sys2Proof.Machine
end

