-- ==== Sys2Proof/Machine/Dispatch.lean ====
section
/-! DEFINITION. The effect of each command on everything but the queue: one arm per row of the table. -/
namespace Sys2Proof.Machine

def exec (i : Instr) (s : State) : Host.Outcome State Fault Refusal :=
  match i with
  | .powerOn => Sys2Proof.Machine.execPowerOn s
  | .attach u => Sys2Proof.Machine.execAttach u s
  | .detach u => Sys2Proof.Machine.execDetach u s
  | .run u => Sys2Proof.Machine.execRun u s
  | .stop u => Sys2Proof.Machine.execStop u s
  | .attend u => Sys2Proof.Machine.execAttend u s
  | .pass u => Sys2Proof.Machine.execPass u s
  | .clear u => Sys2Proof.Machine.execClear u s
  | .engineReset u => Sys2Proof.Machine.execEngineReset u s
  | .unknownCommandCode w => Sys2Proof.Machine.execUnknownCommandCode w s
  | .wbaseWrite w => Sys2Proof.Machine.execWbaseWrite w s
  | .causeWrite w => Sys2Proof.Machine.execCauseWrite w s
  | .maskWrite w => Sys2Proof.Machine.execMaskWrite w s
  | .registerWriteDisregarded r w => Sys2Proof.Machine.execRegisterWriteDisregarded r w s
  | .passTimerExpiry => Sys2Proof.Machine.execPassTimerExpiry s
  | .busTimeout => Sys2Proof.Machine.execBusTimeout s
  | .disregardedAccessEnd e => Sys2Proof.Machine.execDisregardedAccessEnd e s
  | .attachReadAnswer a => Sys2Proof.Machine.execAttachReadAnswer a s
  | .startStampReadAnswer a => Sys2Proof.Machine.execStartStampReadAnswer a s
  | .unconfirmedBankReadAnswer a => Sys2Proof.Machine.execUnconfirmedBankReadAnswer a s
  | .holdWordReadAnswer a => Sys2Proof.Machine.execHoldWordReadAnswer a s
  | .fillingHeaderWriteAnswer a => Sys2Proof.Machine.execFillingHeaderWriteAnswer a s
  | .inputReadAnswer a => Sys2Proof.Machine.execInputReadAnswer a s
  | .entryWriteAnswer a => Sys2Proof.Machine.execEntryWriteAnswer a s
  | .endStampReadAnswer a => Sys2Proof.Machine.execEndStampReadAnswer a s
  | .completeHeaderWriteAnswer a => Sys2Proof.Machine.execCompleteHeaderWriteAnswer a s
  | .publicationWordWriteAnswer a => Sys2Proof.Machine.execPublicationWordWriteAnswer a s
  | .releasedApplyStep => Sys2Proof.Machine.execReleasedApplyStep s
  | .scanReadAnswer a => Sys2Proof.Machine.execScanReadAnswer a s
  | .staleRefusalWriteAnswer a => Sys2Proof.Machine.execStaleRefusalWriteAnswer a s
  | .parameterReadAnswer a => Sys2Proof.Machine.execParameterReadAnswer a s
  | .takenWriteAnswer a => Sys2Proof.Machine.execTakenWriteAnswer a s
  | .lastTakenTicketWriteAnswer a => Sys2Proof.Machine.execLastTakenTicketWriteAnswer a s
  | .configurePublicationWriteAnswer a => Sys2Proof.Machine.execConfigurePublicationWriteAnswer a s
  | .imageReadAnswer a => Sys2Proof.Machine.execImageReadAnswer a s
  | .finishingWriteAnswer a => Sys2Proof.Machine.execFinishingWriteAnswer a s
  | .abandonWriteAnswer a => Sys2Proof.Machine.execAbandonWriteAnswer a s
  | .ackWordReadAnswer a => Sys2Proof.Machine.execAckWordReadAnswer a s
  | .recordWordWriteAnswer a => Sys2Proof.Machine.execRecordWordWriteAnswer a s
  | .highWaterWriteAnswer a => Sys2Proof.Machine.execHighWaterWriteAnswer a s

end Sys2Proof.Machine
end

