-- ==== Sys2Proof/Safety.lean ====
section
/-! DEFINITION. What the statements speak of: the grant that ends a step, accesses inside the window, the bytes a step may
change, and the laws of the device as predicates of a state. -/
namespace Sys2Proof.Machine

/-! ### The bus -/

/-- An access that waits for an owner is the owner's own and passes BIP's comparison (R184). -/
def State.waitAdmitted (s : State) (o : Owner) (a : Access) : Bool := a.owner == o && s.admits a

/-- Every access that waits at BIP passes its comparison (R184: "every access the rules of this manual issue passes"). -/
def State.waitsAdmitted (s : State) : Bool :=
  s.bip.waitEng.all (s.waitAdmitted .eng) && s.bip.waitRqh.all (s.waitAdmitted (.client .rqh))
    && s.bip.waitPse.all (s.waitAdmitted (.client .pse)) && s.bip.waitEvr.all (s.waitAdmitted (.client .evr))

/-- The areas of a configuration lie inside a window of this length, and the strip has room for a record (R160). -/
def Configuration.fits (c : Configuration) (length : Nat) : Bool :=
  decide (c.inputOffset + 4 * c.inputCount ≤ length) && decide (c.bankOffset + Config.bankAreaBytes ≤ length)
    && decide (c.stripOffset + 16 * c.stripCapacity ≤ length) && decide (0 < c.stripCapacity)

/-- A window is accepted, and the control block and the areas of the configuration, if one is stored, lie inside it (R160,
R167, R184). -/
def State.placed (s : State) : Bool :=
  match s.eng.windowLength with
  | none => false
  | some length => decide (Config.controlBlockBytes ≤ length) && s.eng.config.all (fun c => c.fits length)

/-- BIP after the grant that ends a step, with the window at `base`, when every waiting access passes the comparison
(R186). -/
def Bip.afterGrant (b : Bip) (base : Word) : Bip :=
  match b.inFlight, b.next with
  | none, some a =>
    { b.unwait a with
      inFlight := some a
      base := base
      disregard := false
      lastGranted := match a.owner with | .eng => b.lastGranted | .client c => c }
  | none, none | some _, _ => b

/-- BIP after the access in flight has ended, before the grant (R182). -/
def Bip.ended (b : Bip) : Bip := { b with inFlight := none, disregard := false }

/-- BIP with an access of PSE waiting. -/
def Bip.withPse (b : Bip) (offset : Nat) (op : AccessOp) : Bip := { b with waitPse := some ⟨.client .pse, offset, op⟩ }

/-- BIP with an access of RQH waiting. -/
def Bip.withRqh (b : Bip) (offset : Nat) (op : AccessOp) : Bip := { b with waitRqh := some ⟨.client .rqh, offset, op⟩ }

/-- BIP with an access of EVR waiting. -/
def Bip.withEvr (b : Bip) (offset : Nat) (op : AccessOp) : Bip := { b with waitEvr := some ⟨.client .evr, offset, op⟩ }

/-- A bus address is one of the four bytes of the access in flight (R183). -/
def State.inFlightByte (s : State) (address : Nat) : Prop :=
  match s.bip.inFlight with
  | none => False
  | some a => s.busAddress a.offset ≤ address ∧ address < s.busAddress a.offset + 4

/-- For a command that answers an access: whether it is an error answer. None for any other command. -/
def answerFails : Instr → Option Bool
  | .attachReadAnswer a | .startStampReadAnswer a | .unconfirmedBankReadAnswer a | .holdWordReadAnswer a
  | .inputReadAnswer a | .endStampReadAnswer a | .scanReadAnswer a | .parameterReadAnswer a | .imageReadAnswer a
  | .ackWordReadAnswer a => some (a == .error)
  | .fillingHeaderWriteAnswer a | .entryWriteAnswer a | .completeHeaderWriteAnswer a | .publicationWordWriteAnswer a
  | .staleRefusalWriteAnswer a | .takenWriteAnswer a | .lastTakenTicketWriteAnswer a
  | .configurePublicationWriteAnswer a | .finishingWriteAnswer a | .abandonWriteAnswer a | .recordWordWriteAnswer a
  | .highWaterWriteAnswer a => some (a == .error)
  | _ => none

/-- Whether the stage of an owner's work is one whose access the command answers, and the owner; none in any other stage (chapters
5, 7 and 8). -/
def State.answerer (s : State) (i : Instr) : Option Owner :=
  let pse (b : Bool) : Option Owner := if b then some (.client .pse) else none
  let rqh (b : Bool) : Option Owner := if b then some (.client .rqh) else none
  let evr (b : Bool) : Option Owner := if b then some (.client .evr) else none
  match i with
  | .attachReadAnswer _ => some .eng
  | .startStampReadAnswer _ => pse (s.pse.pass == some .startStamp)
  | .unconfirmedBankReadAnswer _ => pse (s.pse.pass == some .unconfirmedRead)
  | .holdWordReadAnswer _ => pse (s.pse.pass == some .holdRead && s.eng.config.isSome)
  | .fillingHeaderWriteAnswer _ =>
    pse ((match s.pse.pass with | some (.fillingHeader _) => true | _ => false) && s.eng.config.isSome)
  | .inputReadAnswer _ =>
    pse ((match s.pse.pass with | some (.inputRead _) => true | _ => false) && s.eng.config.isSome)
  | .entryWriteAnswer _ =>
    pse ((match s.pse.pass with | some (.entryValue ..) => true | some (.entryQuality ..) => true | _ => false)
      && s.eng.config.isSome)
  | .endStampReadAnswer _ => pse (s.pse.pass == some .endStamp && s.eng.config.isSome)
  | .completeHeaderWriteAnswer _ =>
    pse ((match s.pse.pass with | some (.completeHeader _) => true | _ => false) && s.eng.config.isSome)
  | .publicationWordWriteAnswer _ => pse (s.pse.pass == some .publicationWrite)
  | .configurePublicationWriteAnswer _ =>
    pse (match s.rqh.held with | some ⟨_, _, _, _, .configureWrite ..⟩ => true | _ => false)
  | .ackWordReadAnswer _ =>
    evr ((match s.evr.work with | .readingAck .. => true | _ => false) && s.eng.config.isSome)
  | .recordWordWriteAnswer _ =>
    evr ((match s.evr.work with | .writing _ _ k _ => k != 4 | _ => false) && s.eng.config.isSome)
  | .highWaterWriteAnswer _ =>
    evr ((match s.evr.work with | .writing _ _ k _ => k == 4 | _ => false) && s.eng.config.isSome)
  | .scanReadAnswer _ => rqh (match s.rqh.scan with | some (.reading ..) => true | _ => false)
  | .staleRefusalWriteAnswer _ => rqh (match s.rqh.scan with | some (.staleWrite ..) => true | _ => false)
  | .parameterReadAnswer _ => rqh (match s.rqh.scan with | some (.paramRead ..) => true | _ => false)
  | .takenWriteAnswer _ => rqh (match s.rqh.scan with | some (.takenWrite ..) => true | _ => false)
  | .lastTakenTicketWriteAnswer _ => rqh (s.rqh.scan == some .ticketWrite && s.rqh.held.isSome)
  | .imageReadAnswer _ =>
    rqh ((match s.rqh.held with | some ⟨_, _, _, _, .imageRead⟩ => true | _ => false) && s.clb.building.isSome)
  | .finishingWriteAnswer _ => rqh (match s.rqh.held with | some ⟨_, _, _, _, .finishing ..⟩ => true | _ => false)
  | .abandonWriteAnswer _ => rqh (match s.rqh.held with | some ⟨_, _, _, _, .abandonWrite _⟩ => true | _ => false)
  | _ => none

/-- The command is an error answer to the access client `c` has in flight, by the stage of its work. -/
def State.isErrorAnswer (s : State) (i : Instr) (c : Client) : Bool :=
  answerFails i == some true && s.answerer i == some (.client c)

/-- The command reports something that is not happening (log entry 1): an answer that nobody awaits, or another stage's; an expiry
of a stopped timer; a timeout with no access in flight; the end of a disregarded access when none is; a released apply step when no
edit is released. -/
def State.notHappening (s : State) (i : Instr) : Bool :=
  match i with
  | .passTimerExpiry => s.pse.timer.isNone
  | .busTimeout => s.bip.inFlight.isNone
  | .disregardedAccessEnd _ => s.bip.inFlight.isNone || !s.bip.disregard
  | .releasedApplyStep => match s.rqh.held with | some ⟨_, _, _, _, .awaitApply _ true⟩ => false | _ => true
  | i => (answerFails i).isSome && (s.answerer i).all (fun o => (s.awaited o).isNone)

/-- The failure of RQH's access faults the engine: it is neither an image read nor an abandon-write (R154). -/
def Rqh.failureFaults (r : Rqh) : Bool :=
  match r.held with
  | some ⟨_, _, _, _, .imageRead⟩ => false
  | some ⟨_, _, _, _, .abandonWrite _⟩ => false
  | _ => true

/-! ### Requests (R146, R148, R152, R153) -/

/-- A slot's word 0 is POSTED with a ticket that stands from `least` to `most` behind the expected one, modulo 65,536. -/
def Rqh.behind (r : Rqh) (head : Word) (least most : Nat) : Prop :=
  head.toNat % 256 = 1
  ∧ least ≤ (r.expectedTicket.toNat + 65536 - head.toNat / 65536) % 65536
  ∧ (r.expectedTicket.toNat + 65536 - head.toNat / 65536) % 65536 ≤ most

/-- A slot's word 0 with another state, kind and ticket kept (R144). -/
def withState (head : Word) (code : Nat) : Word := Word.ofNat (head.toNat / 256 * 256 + code)

/-- How a scan goes on from `s`, the slots read and those below `n` done with (R148): the lowest slot from `n` on with a stale
ticket is refused; with none, the lowest slot with the expected ticket is taken; with none of these, the scan ends, with the
waiting-for-ticket flag set exactly when a ticket is ahead, and another scan begins if one was asked for. -/
def State.scanContinues (s : State) (heads : Vector Word 16) (n : Nat) (t : State) : Prop :=
  (∀ b : Fin 16, n ≤ b.val → s.rqh.behind heads[b] 1 32768 →
    (∀ b' : Fin 16, n ≤ b'.val → b' < b → ¬s.rqh.behind heads[b'] 1 32768) →
    t = { s with
      rqh := { s.rqh with scan := some (.staleWrite heads b 0) }
      bip := (s.bip.withRqh (64 + 64 * b.val + 36) (.write 13)).afterGrant s.eng.wbase })
  ∧ ((∀ b : Fin 16, n ≤ b.val → ¬s.rqh.behind heads[b] 1 32768) →
    (∀ b : Fin 16, s.rqh.behind heads[b] 0 0 → (∀ b' : Fin 16, b' < b → ¬s.rqh.behind heads[b'] 0 0) →
      t = { s with
        rqh := { s.rqh with scan := some (.paramRead b heads[b] 0 (Vector.replicate 8 0)) }
        bip := (s.bip.withRqh (64 + 64 * b.val + 4) .read).afterGrant s.eng.wbase })
    ∧ ((∀ b : Fin 16, ¬s.rqh.behind heads[b] 0 0) → ∃ flag : Bool,
      (flag = true ↔ ∃ b : Fin 16, s.rqh.behind heads[b] 32769 65535)
      ∧ (s.rqh.scanRequested = false →
        t = { s with
          rqh := { s.rqh with scan := none, waitingForTicket := flag }
          bip := s.bip.afterGrant s.eng.wbase })
      ∧ (s.rqh.scanRequested = true →
        t = { s with
          rqh := { s.rqh with
            scan := some (.reading 0 (Vector.replicate 16 0)), scanRequested := false, waitingForTicket := flag }
          bip := (s.bip.withRqh 64 .read).afterGrant s.eng.wbase })))

/-- `s` with the finishing of a request begun: its result code on the way to word 9 of its slot (R153). -/
def State.finishing (s : State) (h : Held) (code : ResultCode) (words : List Word) : State :=
  { s with
    rqh := { s.rqh with held := some { h with stage := .finishing code (resultWords words) 0 } }
    bip := (s.bip.withRqh (64 + 64 * h.slot.val + 36) (.write (Word.ofNat code.code))).afterGrant s.eng.wbase }

/-- The owner's change made whole in the step to `t`, its events handed, and the finishing begun with OK (R152, R153). -/
def State.appliesNow (s : State) (h : Held) (e : Edit) (t : State) : Prop :=
  t.eng = s.eng ∧ t.pse = s.pse ∧ t.window = s.window ∧ t.pending = s.pending
  ∧ t.clb = (s.applyEdit e).state.clb ∧ t.ptb = (s.applyEdit e).state.ptb ∧ t.zsv = (s.applyEdit e).state.zsv
  ∧ t.rqh = { s.rqh with
      effectTaken := true, held := some { h with stage := .finishing .ok (resultWords (s.applyEdit e).words) 0 } }
  ∧ t.evr = (s.handAll (s.applyEdit e).events).evr
  ∧ (t.bip.waitRqh = some ⟨.client .rqh, 64 + 64 * h.slot.val + 36, .write 0⟩
    ∨ t.bip.inFlight = some ⟨.client .rqh, 64 + 64 * h.slot.val + 36, .write 0⟩)

/-- A request that has passed its checks reaches its apply step (R152): it is held in IN_PASS and applied at once in
NO_PASS. -/
def State.reachesApply (s : State) (h : Held) (e : Edit) (t : State) : Prop :=
  (s.pse.pass ≠ none → t = { s with
    rqh := { s.rqh with held := some { h with stage := .awaitApply e false } }
    bip := s.bip.afterGrant s.eng.wbase })
  ∧ (s.pse.pass = none → s.appliesNow h e t)

/-! ### Conversions and the end of a pass (R53, R62, R85, R107) -/

/-- `t` is `s` after the conversion of ACTIVE point `i`, of definition `d`, from its source result on, the entry's value word
waiting at BIP: working state, zone, PSE's stage, and the events handed in order, zone events (with the zone state as it arises)
before the quality event (with the quality's code). -/
def State.converted (s : State) (c : Configuration) (i : Fin 256) (d : PointDef) (src : SourceResult) (t : State) : Prop :=
  let u := s.ptb.points[i].update d.window (curveStep s.clb d src)
  let m := s.zsv.evaluate d.zoneSet s.zsv.zones[i] u.point.lastOutput u.quality
  let event (k : EventKind) (aux : BitVec 16) : Event :=
    ⟨k, BitVec.ofNat 8 i.val, u.point.lastOutput, aux, s.pse.passNumber⟩
  let zoneEvents := m.events.map (fun k => event k (match k with | .highEnter => 4 | .lowEnter => 7 | _ => 2))
  let qualityEvents := (u.event.map (fun k => event k (BitVec.ofNat 16 u.quality.code))).toList
  let handed := s.handAll (zoneEvents ++ qualityEvents)
  t.eng = s.eng ∧ t.rqh = s.rqh ∧ t.clb = s.clb ∧ t.window = s.window ∧ t.freeIndex = s.freeIndex ∧ t.pending = s.pending
  ∧ t.ptb.points[i] = u.point ∧ (∀ j : Fin 256, j ≠ i → t.ptb.points[j] = s.ptb.points[j])
  ∧ t.zsv.sets = s.zsv.sets ∧ t.zsv.zones[i] = m.zone ∧ (∀ j : Fin 256, j ≠ i → t.zsv.zones[j] = s.zsv.zones[j])
  ∧ t.pse = { s.pse with
      pass := some (.entryValue i u.point.lastOutput (Word.ofNat (u.quality.code + 256 * m.zone.state.code))) }
  ∧ t.evr = handed.evr
  ∧ t.bip = handed.bip.withPse (c.bankOffset + 2064 * s.pse.workBank.val + 16 + 8 * i.val) (.write u.point.lastOutput)

/-- `order` is the events an edit's owner hands with PSE's event, if there is one, somewhere among them (R132; the place is log
entry 6's free value). -/
def joinsAmong (event : Option Event) (owner order : List Event) : Prop :=
  match event with
  | none => order = owner
  | some e => ∃ n, order = owner.take n ++ e :: owner.drop n

/-- The recorder, BIP and the free-value counter in the step to `t` that ends a pass of `s`, the window being `m` in it: the scan's
read when RQH is free, or the finishing write of the edit applied in the step (`applies`); the events handed, PSE's and, with an
edit applied, its owner's; the next pass's stamp read where one begins (`again`); and the grant (R107, R109, R153, R186). -/
def State.passEndWork (s : State) (m : Memory) (applies again : Prop) (event : Option Event) (t : State) : Prop :=
  let follows (bip : Bip) (events : List Event) : Prop :=
    let handed := ({ s with window := m, bip := bip } : State).handAll events
    t.evr = handed.evr
    ∧ (again → t.bip = (handed.bip.withPse 24 .read).afterGrant s.eng.wbase)
    ∧ (¬again → t.bip = handed.bip.afterGrant s.eng.wbase)
  (s.rqh.waitingEdit = none ∨ ¬applies →
    follows (if s.rqh.busy then s.bip.ended else s.bip.ended.withRqh 64 .read) event.toList
    ∧ t.freeIndex = s.freeIndex)
  ∧ (∀ h e r, s.rqh.held = some h → h.stage = .awaitApply e r → applies →
    let owner := (s.applyEdit e).events
    ∃ order, joinsAmong event owner order
      ∧ follows (s.bip.ended.withRqh (64 + 64 * h.slot.val + 36) (.write 0)) order
      ∧ t.freeIndex = s.freeIndex + (if event = none ∨ owner = [] then 0 else 1))

/-! ### The library (R26 to R29) -/

/-- The blocks the body under construction holds; none when there is none. -/
def Clb.buildingBlocks (clb : Clb) : List (Fin Config.poolBlocks) :=
  match clb.building with
  | none => []
  | some b => b.blocks

/-- Every block of the pool is free or held by exactly one body, and together they are the 96 (R28, R29). -/
def Clb.poolLaw (clb : Clb) : Prop :=
  (clb.free ++ clb.slots.toList.flatMap CurveSlot.blocks ++ clb.buildingBlocks).Perm (List.finRange Config.poolBlocks)

/-- A point is ACTIVE and bound to a slot in a direction. -/
def Point.bound (p : Point) (c : Fin 64) (dir : Direction) : Bool :=
  match p.definition with
  | none => false
  | some d => d.curve == some c && d.direction == dir

/-- R26: each count of each slot is the number of ACTIVE points bound to it in that direction. -/
def State.countLaw (s : State) : Prop :=
  ∀ c : Fin 64,
    s.clb.slots[c].forwardCount = countNamed (fun i => s.ptb.points[i].bound c .forward)
    ∧ s.clb.slots[c].inverseCount = countNamed (fun i => s.ptb.points[i].bound c .inverse)

/-- R27, its first part: a live body of a slot whose inverse count is not zero is invertible. -/
def Clb.liveInvertible (clb : Clb) : Prop :=
  ∀ (c : Fin 64) (body : Body), clb.slots[c].body = some body → clb.slots[c].inverseCount ≠ 0 → body.invertible = true

/-- R27, its second part: so is the body under construction for such a slot. -/
def Clb.buildingInvertible (clb : Clb) : Prop :=
  ∀ (b : Building) (body : Body), clb.building = some b → b.body = some body →
    clb.slots[b.target].inverseCount ≠ 0 → body.invertible = true

/-- What keeps R27: a whole body under construction waits for its own installation, a SET_POINT that waits binds INVERSE to an
invertible body or an EMPTY slot (R65), and a scan finds no request past its take (R145). -/
def State.invertibleGuard (s : State) : Prop :=
  (∀ (b : Building) (body : Body), s.clb.building = some b → b.body = some body →
    s.rqh.waitingEdit = some (.install b.target))
  ∧ (∀ (i : Fin 256) (d : PointDef) (c : Fin 64) (body : Body), s.rqh.waitingEdit = some (.setPoint i d) →
    d.direction = .inverse → d.curve = some c → s.clb.slots[c].body = some body → body.invertible = true)
  ∧ (∀ (sc : ScanStage) (h : Held), s.rqh.scan = some sc → s.rqh.held = some h → h.stage = .taken)

/-! ### Points and zones (R50, R52, R73, R78) -/

/-- What R49 to R51 ask of the definition of point `i`: an input word index within 0 to 1,023, a span inside its format's range,
members below `i`, FORWARD with no curve, a window length of 1 to 16. -/
def PointDef.legal (d : PointDef) (i : Fin 256) : Prop :=
  (match d.source with
    | .raw index f lo hi => index ≤ 1023 ∧ f.least ≤ lo.toInt ∧ lo.toInt ≤ hi.toInt ∧ hi.toInt ≤ f.greatest
    | .aggregate first count _ => 2 ≤ count ∧ count ≤ 16 ∧ first + count - 1 < i.val)
  ∧ (d.curve = none → d.direction = .forward)
  ∧ 1 ≤ d.window ∧ d.window ≤ 16

/-- R49 to R52 for one point: an ACTIVE point's definition is legal and its history holds at most window-length values; an
UNUSED point has an UNUSED point's working state. -/
def Point.legal (p : Point) (i : Fin 256) : Prop :=
  match p.definition with
  | some d => d.legal i ∧ p.history.length ≤ d.window
  | none => p.history = [] ∧ p.lastOutput = 0 ∧ p.usability = .notYet

/-- R49 to R52 for every point; a SET_POINT that waits carries a legal definition (R64). The stored input word count, which bounds
the input word index a SET_POINT may carry, is at most 1,024, and so is that of a CONFIGURE under way (R160). -/
def State.pointLaw (s : State) : Prop :=
  (∀ i : Fin 256, s.ptb.points[i].legal i)
  ∧ (∀ (i : Fin 256) (d : PointDef), s.rqh.waitingEdit = some (.setPoint i d) → d.legal i)
  ∧ (∀ c : Configuration, s.eng.config = some c → c.inputCount ≤ 1024)
  ∧ ∀ (h : Held) (c : Configuration) (had : Bool) (old : Word), s.rqh.held = some h →
      h.stage = .configureWrite c had old → c.inputCount ≤ 1024

/-- The pending count of a zone state, where it has one (R78). -/
def ZoneState.pendingCount : ZoneState → Option Nat
  | .highPending k => some k
  | .lowPending k => some k
  | .none | .unknown | .inside | .high | .highHeld | .low | .lowHeld => Option.none

/-- R73 and R78 for one point: without a zone set NONE; with one, the set is written, the state is another, and a pending
count lies from 1 to one less than the dwell. -/
def Zsv.legalFor (zsv : Zsv) (p : Point) (z : PointZone) : Prop :=
  match p.definition.bind PointDef.zoneSet with
  | none => z.state = .none
  | some n => zsv.sets[n].written = true ∧ z.state ≠ .none
      ∧ ∀ k, z.state.pendingCount = some k → 1 ≤ k ∧ k < zsv.sets[n].dwell

/-- R73 and R78 for every point; every set's dwell is at least 1, and what a waiting SET_ZONES or SET_POINT carries has passed
R74 and R64. -/
def State.zoneLaw (s : State) : Prop :=
  (∀ z : Fin 64, 1 ≤ s.zsv.sets[z].dwell)
  ∧ (∀ i : Fin 256, s.zsv.legalFor s.ptb.points[i] s.zsv.zones[i])
  ∧ (∀ (z : Fin 64) (v : ZoneSet), s.rqh.waitingEdit = some (.setZones z v) → 1 ≤ v.dwell)
  ∧ (∀ (i : Fin 256) (d : PointDef) (z : Fin 64), s.rqh.waitingEdit = some (.setPoint i d) → d.zoneSet = some z →
    s.zsv.sets[z].written = true)

/-! ### Recorder (R134, R136) -/

/-- R136, with what keeps it: a record is begun with room and carries the number W + 1 until W has it (R134, R135); without a
configuration nothing is recorded (R132), and a CONFIGURE whose publication word is being written has none (R161). -/
def State.roomLaw (s : State) : Prop :=
  (match s.eng.config with
    | none => s.evr.w = 0 ∧ s.evr.a = 0 ∧ s.evr.work = .idle ∧ s.evr.queue = []
    | some c => (s.evr.w - s.evr.a).toNat ≤ c.stripCapacity
        ∧ ∀ seq e k behind, s.evr.work = .writing seq e k behind → k ≠ 4 →
          seq = s.evr.w + 1 ∧ (s.evr.w - s.evr.a).toNat < c.stripCapacity)
  ∧ ∀ (h : Held) (c : Configuration) (had : Bool) (old : Word), s.rqh.held = some h →
      h.stage = .configureWrite c had old → s.eng.config = none

/-! ### Engine (R95, R98, R178, R179) -/

/-- A held request is being abandoned (R156). -/
def Held.abandoning (h : Held) : Bool :=
  match h.stage with
  | .abandonWrite _ => true
  | .taken | .configureWrite .. | .imageRead | .awaitApply .. | .finishing .. => false

/-- No block but ENG has work or an access: DETACHED and ATTACHING (R166), and FAULTED but for the abandon-write (R179). -/
def State.clientsIdle (s : State) : Prop :=
  s.pse.pass = none ∧ s.pse.timer = none ∧ s.rqh.scan = none ∧ s.evr.work = .idle ∧ s.evr.queue = []
  ∧ s.bip.waitPse = none ∧ s.bip.waitEvr = none

/-- The law of the engine state: the timer runs in RUNNING alone (R95), a pass is in flight in RUNNING and STOPPING alone
(R110), FAULTED has no work but the abandon-write of its entry (R179), DETACHED and ATTACHING have none (R166), and an attach read
is made in ATTACHING alone. -/
def State.engineLaw (s : State) : Prop :=
  (s.pse.timer ≠ none → s.eng.engine = .running)
  ∧ (s.pse.pass ≠ none → s.eng.engine = .running ∨ s.eng.engine = .stopping)
  ∧ (s.eng.engine = .stopping → s.pse.pass ≠ none)
  ∧ (s.eng.faultEntry = true → s.eng.engine = .faulted)
  ∧ (∀ h, s.rqh.held = some h → h.abandoning = true → s.eng.faultEntry = true)
  ∧ (s.eng.engine = .faulted → s.clientsIdle
      ∧ (if s.eng.faultEntry then
          (∃ h, s.rqh.held = some h ∧ h.abandoning = true) ∧ s.bip.waitRqh = none ∧ s.bip.disregard = false
            ∧ ∃ a, s.bip.inFlight = some a ∧ a.owner = .client .rqh
        else s.rqh.held = none ∧ s.bip.waitRqh = none ∧ s.bip.inFlight = none))
  ∧ (s.eng.engine = .detached ∨ s.eng.engine = .attaching → s.clientsIdle ∧ s.rqh.held = none ∧ s.eng.config = none
      ∧ s.bip.waitRqh = none
      ∧ ∀ a c, s.bip.inFlight = some a → a.owner = .client c → s.bip.disregard = true)
  ∧ (∀ a, s.bip.waitEng = some a → a.owner = .eng ∧ s.eng.engine = .attaching)
  ∧ (∀ c a, s.bip.waiting c = some a → a.owner = .client c)
  ∧ (∀ a, s.bip.inFlight = some a → a.owner = .eng → s.bip.disregard = false →
      s.eng.engine = .attaching ∧ s.bip.waitEng = none)

/-- WBASE is a multiple of 4 (R163, R174). -/
def Eng.wbaseLaw (e : Eng) : Prop := e.wbase.toNat % 4 = 0

/-- Every waiting access passes the comparison, and what is still to be read or stored lies inside the window: the rest of a curve
image (R33), the areas of the configuration and of a CONFIGURE under way (R160). A window is accepted in every engine state but
DETACHED and ATTACHING (R163). -/
def State.placementLaw (s : State) : Prop :=
  s.eng.wbaseLaw ∧ s.waitsAdmitted = true
  ∧ (s.eng.engine ≠ .detached → s.eng.engine ≠ .attaching → s.eng.windowLength ≠ none)
  ∧ ∀ length, s.eng.windowLength = some length →
      s.placed = true
      ∧ (∀ h b, s.rqh.held = some h → h.stage = .imageRead → s.clb.building = some b →
          b.offset + 4 * b.length ≤ length)
      ∧ (∀ h c had old, s.rqh.held = some h → h.stage = .configureWrite c had old → c.fits length = true)

/-- A trigger is pending only while a pass is in flight (R98; at most one is, by the type of the field). -/
def Pse.pendingLaw (p : Pse) : Prop := p.pendingTrigger = true → p.pass.isSome = true

/-! ### Pass numbers (R94) -/

/-- The pass in flight has taken its number (R94, R101). -/
def Pse.numbered (p : Pse) : Prop := p.pass ≠ none ∧ p.pass ≠ some .startStamp

/-- Every number a later publication can carry is above `n`: the pass number has reached `n`, and the pass in flight, once it has
its number, carries a greater one (R94). -/
def Pse.numbersAbove (p : Pse) (n : Word) : Prop :=
  n.toNat ≤ p.passNumber.toNat ∧ (p.numbered → n.toNat < p.passNumber.toNat)

/-- No pass is begun, or about to take its number, when the pass number stands at its greatest value (R94, R107, R169). -/
def State.numberLaw (s : State) : Prop :=
  (s.pse.pass = some .startStamp → s.pse.passNumber ≠ 0xFFFFFFFF)
  ∧ (s.pse.pass = none → s.eng.engine = .running ∨ s.pse.timer ≠ none → s.pse.passNumber ≠ 0xFFFFFFFF)

/-! ### Publication (R126) -/

/-- The header of bank `b` stands COMPLETE in the window with pass number `n` (R117, R192). -/
def State.complete (s : State) (c : Configuration) (b : Fin 3) (n : Word) : Prop :=
  (s.windowWord (c.bankWord b 0) = some 2 ∨ s.windowWord (c.bankWord b 0) = some 0x102)
  ∧ s.windowWord (c.bankWord b 1) = some n

/-- R126: when the publication word names a bank, that bank's header is COMPLETE and carries a pass number equal, modulo 2^30, to
the one in the publication word. -/
def State.publicationLaw (s : State) : Prop :=
  ∀ (c : Configuration) (w : Word) (b : Fin 3), s.eng.config = some c → s.windowWord 28 = some w → w.toNat % 4 = b.val →
    ∃ n : Word, s.complete c b n ∧ w.toNat / 4 = n.toNat % 2 ^ 30

/-- The bank area and the strip lie outside the control block and apart (R160). -/
def Configuration.apart (c : Configuration) : Prop :=
  1088 ≤ c.bankOffset ∧ 1088 ≤ c.stripOffset ∧ 0 < c.stripCapacity
  ∧ (c.bankOffset + 6192 ≤ c.stripOffset ∨ c.stripOffset + 16 * c.stripCapacity ≤ c.bankOffset)

/-- A client's access that waits, or is in flight and not disregarded. -/
def State.outstanding (s : State) (c : Client) (a : Access) : Prop :=
  s.bip.waiting c = some a ∨ s.awaited (.client c) = some a

/-- The access PSE has outstanding is the one its stage waits for (R99 to R104, R119, R121), or CONFIGURE's (R128). -/
def State.passAccess (s : State) (a : Access) : Prop :=
  match s.eng.config with
  | none => a.offset = 28 ∧ a.op = .write 3 ∧ ∃ h new had old, s.rqh.held = some h ∧ h.stage = .configureWrite new had old
  | some c =>
    match s.pse.pass with
    | none => False
    | some .startStamp | some .holdRead | some (.inputRead _) | some .endStamp => a.op = .read
    | some .unconfirmedRead => a.offset = 28 ∧ a.op = .read
    | some (.fillingHeader k) => a.offset = c.bankWord s.pse.workBank k.val ∧ ∃ w, a.op = .write w
    | some (.entryValue i _ _) => a.offset = c.bankWord s.pse.workBank (4 + 2 * i.val) ∧ ∃ w, a.op = .write w
    | some (.entryQuality i _ _) => a.offset = c.bankWord s.pse.workBank (5 + 2 * i.val) ∧ ∃ w, a.op = .write w
    | some (.completeHeader k) =>
      a.offset = c.bankWord s.pse.workBank (s.pse.completeWrite k).1 ∧ a.op = (s.pse.completeWrite k).2
    | some .publicationWrite =>
      a.offset = 28 ∧ a.op = .write (publicationWord s.pse.workBank.val s.pse.passNumber)

/-- What the publication word and the banks hold by the publication state (R122, R125 to R129): the word names the published bank,
or the write of the unconfirmed bank's word has landed; both banks are COMPLETE; and the pass in flight builds neither. -/
def State.publicationStands (s : State) (c : Configuration) : Prop :=
  (∃ w, s.windowWord 28 = some w
    ∧ ((namedBank w = s.pse.publishedBank
        ∧ ∀ b, s.pse.publishedBank = some b → ∃ n : Word, s.complete c b n ∧ w.toNat / 4 = n.toNat % 2 ^ 30)
      ∨ ∃ u n, s.pse.unconfirmed = some (u, n) ∧ w = publicationWord u.val n))
  ∧ (∀ u n, s.pse.unconfirmed = some (u, n) → s.complete c u n)
  ∧ match s.pse.pass with
    | none | some .startStamp | some .unconfirmedRead => True
    | some .holdRead => s.pse.unconfirmed = none
    | some (.fillingHeader _) | some (.inputRead _) | some (.entryValue ..) | some (.entryQuality ..) | some .endStamp =>
      s.pse.unconfirmed = none ∧ s.pse.publishedBank ≠ some s.pse.workBank
    | some (.completeHeader k) =>
      s.pse.unconfirmed = none ∧ s.pse.publishedBank ≠ some s.pse.workBank
      ∧ (k ≠ 0 → s.windowWord (c.bankWord s.pse.workBank 1) = some s.pse.passNumber)
    | some .publicationWrite => s.pse.unconfirmed = some (s.pse.workBank, s.pse.passNumber)

/-- What keeps the law of publication: the access in flight is at WBASE; PSE's one outstanding access is its stage's; the writes of
RQH and EVR lie outside the publication word and the banks; and the publication word and banks stand as the publication state
says, with no configuration stored from a CONFIGURE's effect to its write's answer (R128). -/
def State.publicationGuard (s : State) : Prop :=
  (s.bip.inFlight ≠ none → s.bip.disregard = false → s.bip.base = s.eng.wbase)
  ∧ (s.bip.waitPse = none ∨ s.awaited (.client .pse) = none)
  ∧ (∀ a, s.outstanding .pse a → s.passAccess a)
  ∧ (∀ a w, s.outstanding .rqh a → a.op.written = some w → 40 ≤ a.offset ∧ a.offset + 4 ≤ 1088)
  ∧ (∀ a w, s.outstanding .evr a → a.op.written = some w → ∃ c, s.eng.config = some c
      ∧ (a.offset = 36 ∨ (c.stripOffset ≤ a.offset ∧ a.offset + 4 ≤ c.stripOffset + 16 * c.stripCapacity)))
  ∧ (∀ h new had old, s.rqh.held = some h → h.stage = .configureWrite new had old →
      s.eng.config = none ∧ s.rqh.scan = none ∧ new.apart ∧ s.pse.bankOrder = [] ∧ s.pse.unconfirmed = none)
  ∧ match s.eng.config with
    | none => s.pse.pass = none ∧ s.pse.timer = none
    | some c => c.apart ∧ s.bip.disregard = false ∧ s.publicationStands c

/-- A read in the step from `s` to `t` finds in the publication word and in the bank area what the part knows to stand there: the
host has written neither (R116, R126: PSE alone writes them). -/
def State.banksReadAsKnown (s t : State) : Prop :=
  ∀ (a : Access) (c : Configuration), s.bip.inFlight = some a → a.op = .read → s.eng.config = some c →
    ∀ (offset : Nat) (b : Byte),
      (28 ≤ offset ∧ offset < 32) ∨ (c.bankOffset ≤ offset ∧ offset < c.bankOffset + 6192) →
      Memory.readByte s.window (s.eng.wbase.toNat + offset) = some b →
      Memory.readByte t.window (s.eng.wbase.toNat + offset) = some b

end Sys2Proof.Machine
end

