-- ==== Sys2Proof/WellFormed.lean ====
section
/-! DEFINITION. Which commands are well formed. Every operand's range but one is in its type; the one
check is that UNKNOWN_COMMAND_CODE carries a code that is unknown. -/
namespace Sys2Proof

/-- The command code: the lowest eight bits of the word written to CMD (R164). -/
def commandCode (written : Word) : Nat := written.toNat % 256

/-- A code of 0 or of 9 to 255 is no command (R164). -/
def isUnknownCode (code : Nat) : Bool := code == 0 || 8 < code

/-- The check of a command: UNKNOWN_COMMAND_CODE is a CMD write whose code is 0 or 9 to 255 (R164). -/
def Instr.wellFormed : Instr → Bool
  | .unknownCommandCode w => isUnknownCode (commandCode w)
  | .powerOn | .attach _ | .detach _ | .run _ | .stop _ | .attend _ | .pass _ | .clear _
  | .engineReset _ | .wbaseWrite _ | .causeWrite _ | .maskWrite _ | .registerWriteDisregarded _ _
  | .passTimerExpiry | .busTimeout | .disregardedAccessEnd _ | .attachReadAnswer _
  | .startStampReadAnswer _ | .unconfirmedBankReadAnswer _ | .holdWordReadAnswer _
  | .fillingHeaderWriteAnswer _ | .inputReadAnswer _ | .entryWriteAnswer _ | .endStampReadAnswer _
  | .completeHeaderWriteAnswer _ | .publicationWordWriteAnswer _ | .releasedApplyStep
  | .scanReadAnswer _ | .staleRefusalWriteAnswer _ | .parameterReadAnswer _ | .takenWriteAnswer _
  | .lastTakenTicketWriteAnswer _ | .configurePublicationWriteAnswer _ | .imageReadAnswer _
  | .finishingWriteAnswer _ | .abandonWriteAnswer _ | .ackWordReadAnswer _
  | .recordWordWriteAnswer _ | .highWaterWriteAnswer _ => true

end Sys2Proof
end

