-- ==== Sys2Proof/Certificates/Slice0/Obligations.lean ====
section
/-! DEFINITION. The statements for the provers. Each says what its name and docstring say; OBLIGATIONS.json gives the rules.
`Bip.afterGrant` is the grant that ends a step (R186), `Bip.ended` the end of the access in flight (R182). -/

section
open Sys2Proof Sys2Proof.Machine

/-! ### Steps, reset, power-on -/

/-- A step takes the command at the front of the queue and runs it on the part with the queue's rest. -/
def Obligations.StepRunsTheFrontCommand : Prop :=
  ∀ (c : Instr) (rest : List Instr) (s : Machine.State),
    step { s with pending := c :: rest } = exec c { s with pending := rest }

/-- No command is turned away: every command answers a next state, whatever the state, and leaves the queue; every step
answers a next state, and on an empty queue changes nothing. A command that reports something which is not happening leaves the
state as it was: an answer that nobody awaits or that is another stage's, a timeout with no access in flight, the end of a
disregarded access when none is, an expiry of a stopped timer, a released apply step with no released edit. That every command in
every state has an effect is log entry 21 (DEDUCED); that an event which is not happening has none is log entry 1, the idling log
entry 12 (both DESIGN CHOICE). -/
def Obligations.EveryCommandCompletes : Prop :=
  (∀ (c : Instr) (s : Machine.State), ∃ t, exec c s = .next t ∧ t.pending = s.pending)
  ∧ (∀ s : Machine.State, ∃ t, step s = .next t)
  ∧ (∀ s : Machine.State, s.pending = [] → step s = .next s)
  ∧ (∀ (c : Instr) (s : Machine.State), s.notHappening c = true → exec c s = .next s)

/-- State.reset holds the power-on value the spec gives each item of each block, and INTN is high. The running check word the spec
calls cleared is 0 by log entry 13 (DEDUCED). -/
def Obligations.ResetHoldsThePowerOnValues : Prop :=
  let s := State.reset
  (s.eng.engine = .detached ∧ s.eng.faultEntry = false ∧ s.eng.wbase = 0 ∧ s.eng.windowLength = none
    ∧ s.eng.config = none ∧ s.eng.cause = 0 ∧ s.eng.mask = 0 ∧ s.eng.faultRecord = none ∧ s.eng.secondFault = false
    ∧ s.eng.lastRefusal = 0 ∧ s.eng.attachReason = .none ∧ s.intn = true)
  ∧ (s.rqh.expectedTicket = 0 ∧ s.rqh.held = none ∧ s.rqh.scan = none ∧ s.rqh.scanRequested = false
    ∧ s.rqh.waitingForTicket = false ∧ s.rqh.deferredApply = false ∧ s.rqh.effectTaken = false ∧ s.rqh.refused = 0)
  ∧ ((∀ c : Fin 64, s.clb.slots[c].body = none ∧ s.clb.slots[c].forwardCount = 0 ∧ s.clb.slots[c].inverseCount = 0)
    ∧ s.clb.free.length = 96 ∧ s.clb.building = none)
  ∧ (∀ i : Fin 256, s.ptb.points[i].definition = none ∧ s.ptb.points[i].history = []
    ∧ s.ptb.points[i].lastOutput = 0 ∧ s.ptb.points[i].usability = .notYet)
  ∧ (∀ z : Fin 64, s.zsv.sets[z] = ⟨false, 0, 0, 0, 1, false⟩)
  ∧ (∀ i : Fin 256, s.zsv.zones[i] = ⟨.none, false⟩)
  ∧ (s.pse.pass = none ∧ s.pse.passNumber = 0 ∧ s.pse.pendingTrigger = false ∧ s.pse.overrunCount = 0
    ∧ s.pse.skipFlag = false ∧ s.pse.timer = none ∧ s.pse.inputChanged = false ∧ s.pse.publishedBank = none
    ∧ s.pse.bankOrder = [] ∧ s.pse.unconfirmed = none ∧ s.pse.published = 0 ∧ s.pse.skipped = 0 ∧ s.pse.overruns = 0
    ∧ s.pse.activeCount = 0 ∧ s.pse.runningCheck = 0)
  ∧ (s.evr.w = 0 ∧ s.evr.a = 0 ∧ s.evr.pendingDropped = 0 ∧ s.evr.ackInvalid = false ∧ s.evr.queue = []
    ∧ s.evr.work = .idle ∧ s.evr.dropped = 0)
  ∧ (s.bip.inFlight = none ∧ s.bip.waitRqh = none ∧ s.bip.waitPse = none ∧ s.bip.waitEvr = none
    ∧ s.bip.lastGranted = .evr ∧ s.bip.disregard = false)

/-- POWER_ON gives every block its power-on values, those of State.reset (the start stamp, the work bank and the cleared running
check word by log entry 13). The window is the host's memory and stands (log entry 4), but that a write in flight may have landed
(log entry 5); the commands that wait are outside the part and stand (log entry 12). -/
def Obligations.PowerOnRestoresThePowerOnValues : Prop :=
  ∀ s : Machine.State,
    ((∀ a, s.bip.inFlight = some a → a.op = .read) →
      exec .powerOn s = .next { State.reset with
        window := s.window, freeIndex := s.freeIndex, pending := s.pending })
    ∧ (∀ a w, s.bip.inFlight = some a → a.op.written = some w →
      exec .powerOn s = .next { State.reset with
          window := s.window, freeIndex := s.freeIndex + 1, pending := s.pending }
      ∨ exec .powerOn s = .next { State.reset with
          window := Memory.writeWord s.window (s.busAddress a.offset) w
          freeIndex := s.freeIndex + 1
          pending := s.pending })

/-! ### Commands written to CMD -/

/-- ATTACH in DETACHED enters ATTACHING, clears the attach-failure reason and has header word 0 read; the read goes on the bus
when BIP is free, and waits for an access still in flight. -/
def Obligations.AttachBegins : Prop :=
  ∀ (s : Machine.State) (u : BitVec 24), s.eng.engine = .detached → s.eng.wbaseLaw →
    exec (.attach u) s = .next { s with
      eng := { s.eng with engine := .attaching, attachReason := .none, attachWords := [] }
      bip := ({ s.bip with waitEng := some ⟨.eng, 0, .read⟩ } : Bip).afterGrant s.eng.wbase }

/-- An answered attach read is followed by the next, at offsets 4, 8 and 12. The fourth, when the header words pass the tests,
takes the engine to IDLE with the window length and the expected ticket of the header. The attach fails at the first header test
that fails, in their order, or at a read past the top of the address space, answered with an error or not at all: the engine returns to DETACHED, and
COMMAND_REFUSED is raised with ATTACH as the last refusal. -/
def Obligations.AttachReadAnswered : Prop :=
  ∀ (s : Machine.State) (a : Access), s.awaited .eng = some a →
    (∀ w, s.eng.attachWords.length < 3 → s.eng.wbase.toNat + 4 * (s.eng.attachWords.length + 1) ≤ 2 ^ 32 - 4 →
      exec (.attachReadAnswer (.word w)) s = .next { s with
        eng := { s.eng with attachWords := s.eng.attachWords ++ [w] }
        window := Memory.writeWord s.window (s.busAddress a.offset) w
        bip := ({ s.bip.ended with
          waitEng := some ⟨.eng, 4 * (s.eng.attachWords.length + 1), .read⟩ } : Bip).afterGrant s.eng.wbase })
    ∧ (s.bip.next = none →
      let failed (reason : AttachReason) (m : Memory) : Host.Outcome Machine.State Fault Refusal := .next { s with
        eng := { s.eng with
          engine := .detached, attachReason := reason, lastRefusal := 1, attachWords := []
          cause := s.eng.cause ||| 0x10 }
        window := m
        bip := s.bip.ended }
      (∀ w0 w1 w2 w, s.eng.attachWords = [w0, w1, w2] →
        let m := Memory.writeWord s.window (s.busAddress a.offset) w
        let badLength : Prop :=
          w2.toNat % 4 ≠ 0 ∨ w2.toNat < 1088 ∨ 16777216 < w2.toNat ∨ 2 ^ 32 < s.eng.wbase.toNat + w2.toNat
        (w0 ≠ 0x4B435242 → exec (.attachReadAnswer (.word w)) s = failed .signature m)
        ∧ (w0 = 0x4B435242 → w1 ≠ 1 → exec (.attachReadAnswer (.word w)) s = failed .version m)
        ∧ (w0 = 0x4B435242 → w1 = 1 → badLength → exec (.attachReadAnswer (.word w)) s = failed .length m)
        ∧ (w0 = 0x4B435242 → w1 = 1 → ¬badLength →
          exec (.attachReadAnswer (.word w)) s = .next { s with
            eng := { s.eng with engine := .idle, windowLength := some w2.toNat, attachWords := [] }
            rqh := { s.rqh with expectedTicket := w.setWidth 16, waitingForTicket := false }
            window := m
            bip := s.bip.ended }))
      ∧ (∀ w, s.eng.attachWords.length < 3 → 2 ^ 32 - 4 < s.eng.wbase.toNat + 4 * (s.eng.attachWords.length + 1) →
        exec (.attachReadAnswer (.word w)) s
          = failed .busError (Memory.writeWord s.window (s.busAddress a.offset) w))
      ∧ (a.op = .read →
        exec (.attachReadAnswer .error) s = failed .busError s.window
        ∧ exec .busTimeout s = failed .busError s.window))

/-- DETACH in IDLE: every block takes its DETACH values in the step; counters, bodies, definitions, zone sets, WBASE, MASK, CAUSE
and the fault record stand, and so does the window. That a DETACH may meet a released edit that still waits, and gives it up with the
held request, and the body an installation has reserved with its blocks, is log entry 24's (DEDUCED; R41 does not foresee it). That
DROPPED counts the event behind a LOST record is log entry 10's (DEDUCED). The order of the free list is log entry 14's; that the
running check word's cleared value is 0 is log entry 13's. -/
def Obligations.DetachEndsTheBinding : Prop :=
  ∀ (s : Machine.State) (u : BitVec 24), s.eng.engine = .idle →
    ∃ t, exec (.detach u) s = .next t
      ∧ t.eng = { s.eng with engine := .detached, config := none, windowLength := none }
      ∧ t.rqh = ⟨0, none, none, false, false, false, s.rqh.refused⟩
      ∧ t.clb.slots = s.clb.slots ∧ t.clb.building = none ∧ t.clb.free = s.clb.free ++ s.clb.buildingBlocks
      ∧ (∀ i : Fin 256, t.ptb.points[i] = ⟨s.ptb.points[i].definition, [], 0, .notYet⟩)
      ∧ t.zsv.sets = s.zsv.sets
      ∧ (∀ i : Fin 256, t.zsv.zones[i] =
          ⟨if (s.ptb.points[i].definition.bind PointDef.zoneSet).isSome then .unknown else .none, false⟩)
      ∧ (t.pse.pass = none ∧ t.pse.passNumber = 0 ∧ t.pse.pendingTrigger = false ∧ t.pse.overrunCount = 0
        ∧ t.pse.skipFlag = false ∧ t.pse.timer = none ∧ t.pse.inputChanged = false ∧ t.pse.bankOrder = []
        ∧ t.pse.unconfirmed = none ∧ t.pse.published = s.pse.published ∧ t.pse.skipped = s.pse.skipped
        ∧ t.pse.overruns = s.pse.overruns ∧ t.pse.activeCount = 0 ∧ t.pse.runningCheck = 0)
      ∧ t.evr = ⟨0, 0, 0, false, [], .idle, s.evr.dropped + Word.ofNat s.evr.heldEvents.length⟩
      ∧ t.bip = { s.bip with
          waitEng := none, waitRqh := none, waitPse := none, waitEvr := none, disregard := s.bip.inFlight.isSome }
      ∧ t.window = s.window ∧ t.freeIndex = s.freeIndex ∧ t.pending = s.pending

/-- RUN in IDLE with a configuration stored and the pass number below its greatest value: RUNNING, and the timer runs with the
configured period in the modes TIMER and BOTH. STOP in RUNNING: the timer stops, a pending trigger is discarded and counted
nowhere, and the engine goes to IDLE, or with a pass in flight to STOPPING. CLEAR in FAULTED with fault entry complete: IDLE, and
the second-fault flag is cleared. Nothing else changes. -/
def Obligations.RunStopAndClear : Prop :=
  ∀ (s : Machine.State) (u : BitVec 24),
    (∀ c, s.eng.engine = .idle → s.eng.config = some c → s.pse.passNumber ≠ 0xFFFFFFFF →
      exec (.run u) s = .next { s with
        eng := { s.eng with engine := .running }
        pse := { s.pse with timer := if c.mode = .command then none else some c.period } })
    ∧ (s.eng.engine = .running →
      exec (.stop u) s = .next { s with
        eng := { s.eng with engine := if s.pse.pass = none then .idle else .stopping }
        pse := { s.pse with timer := none, pendingTrigger := false } })
    ∧ (s.eng.engine = .faulted → s.eng.faultEntry = false →
      exec (.clear u) s = .next { s with eng := { s.eng with engine := .idle, secondFault := false } })

/-- ATTEND in IDLE, RUNNING or STOPPING: a scan begins with the read of slot 0's word 0, or with RQH holding a request or
scanning the scan-requested flag is set. -/
def Obligations.AttendIsAScanOccasion : Prop :=
  ∀ (s : Machine.State) (u : BitVec 24),
    (s.eng.engine = .idle ∨ s.eng.engine = .running ∨ s.eng.engine = .stopping) → s.waitsAdmitted = true →
    s.placed = true →
    (s.rqh.held = none → s.rqh.scan = none →
      exec (.attend u) s = .next { s with
        rqh := { s.rqh with scan := some (.reading 0 (Vector.replicate 16 0)), scanRequested := false }
        bip := (s.bip.withRqh 64 .read).afterGrant s.eng.wbase })
    ∧ (s.rqh.held ≠ none ∨ s.rqh.scan ≠ none →
      exec (.attend u) s = .next { s with
        rqh := { s.rqh with scanRequested := true }
        bip := s.bip.afterGrant s.eng.wbase })

/-- A trigger, by the running timer's expiry or by a PASS that the engine accepts: in NO_PASS a pass begins with the read of the
stamp; in IN_PASS it becomes the pending trigger; with one pending it is lost and counted. A stopped timer gives no
trigger: that its expiry, which the spec says does not come, changes nothing is log entry 1's (DESIGN CHOICE). -/
def Obligations.TriggersAreServed : Prop :=
  (∀ s : Machine.State, s.pse.timer = none → exec .passTimerExpiry s = .next s)
  ∧ ∀ (s : Machine.State) (i : Instr),
    ((i = .passTimerExpiry ∧ s.pse.timer ≠ none)
      ∨ (∃ u c, i = .pass u ∧ s.eng.engine = .running ∧ s.eng.config = some c ∧ c.mode ≠ .timer)) →
    s.waitsAdmitted = true → s.placed = true →
    (s.pse.pass = none →
      exec i s = .next { s with
        pse := { s.pse with pass := some .startStamp, inputChanged := false }
        bip := (s.bip.withPse 24 .read).afterGrant s.eng.wbase })
    ∧ (s.pse.pass ≠ none → s.pse.pendingTrigger = false →
      exec i s = .next { s with
        pse := { s.pse with pendingTrigger := true }
        bip := s.bip.afterGrant s.eng.wbase })
    ∧ (s.pse.pass ≠ none → s.pse.pendingTrigger = true →
      exec i s = .next { s with
        pse := { s.pse with
          overrunCount := if s.pse.overrunCount = 0xFFFFFFFF then 0xFFFFFFFF else s.pse.overrunCount + 1
          overruns := s.pse.overruns + 1 }
        bip := s.bip.afterGrant s.eng.wbase })

/-- ENGINE_RESET in every engine state: every block takes its ENGINE_RESET values in the step; WBASE, MASK, bodies, counts,
definitions and zone sets stand; the access in flight stays on the bus, its answer to be disregarded. The order of the free list is
log entry 14's; that the running check word's cleared value is 0 is log entry 13's. -/
def Obligations.EngineResetInEveryState : Prop :=
  ∀ (s : Machine.State) (u : BitVec 24),
    ∃ t, exec (.engineReset u) s = .next t
      ∧ t.eng = ⟨.detached, false, s.eng.wbase, none, none, 0, s.eng.mask, none, false, 0, .none, []⟩
      ∧ t.rqh = ⟨0, none, none, false, false, false, 0⟩
      ∧ t.clb.slots = s.clb.slots ∧ t.clb.building = none ∧ t.clb.free = s.clb.free ++ s.clb.buildingBlocks
      ∧ (∀ i : Fin 256, t.ptb.points[i] = ⟨s.ptb.points[i].definition, [], 0, .notYet⟩)
      ∧ t.zsv.sets = s.zsv.sets
      ∧ (∀ i : Fin 256, t.zsv.zones[i] =
          ⟨if (s.ptb.points[i].definition.bind PointDef.zoneSet).isSome then .unknown else .none, false⟩)
      ∧ (t.pse.pass = none ∧ t.pse.passNumber = 0 ∧ t.pse.pendingTrigger = false ∧ t.pse.overrunCount = 0
        ∧ t.pse.skipFlag = false ∧ t.pse.timer = none ∧ t.pse.inputChanged = false ∧ t.pse.bankOrder = []
        ∧ t.pse.unconfirmed = none ∧ t.pse.published = 0 ∧ t.pse.skipped = 0 ∧ t.pse.overruns = 0
        ∧ t.pse.activeCount = 0 ∧ t.pse.runningCheck = 0)
      ∧ t.evr = ⟨0, 0, 0, false, [], .idle, 0⟩
      ∧ t.bip = { s.bip with
          waitEng := none, waitRqh := none, waitPse := none, waitEvr := none
          disregard := s.bip.inFlight.isSome, lastGranted := .evr }
      ∧ t.window = s.window ∧ t.freeIndex = s.freeIndex ∧ t.pending = s.pending

/-- A command that the engine state does not allow is refused, and so is an unknown code: the last refusal and
COMMAND_REFUSED, and nothing else. A word written to CMD is the command of the code in its lowest eight bits, its other bits
disregarded; it is always well formed, and has its effect even where the row of the unknown codes carries it (log entry 3). With no
command waiting, the step after a write of a word at CMD's offset 0x08 is that command; and the step on a state with the word put
at the front of the queue is that command (log entry 12). -/
def Obligations.CommandsNotAllowedAreRefused : Prop :=
  (∀ w : Word,
    let code := w.toNat % 256
    let upper : BitVec 24 := w.extractLsb' 8 24
    (code = 1 → Instr.ofCommandWord w = .attach upper) ∧ (code = 2 → Instr.ofCommandWord w = .detach upper)
    ∧ (code = 3 → Instr.ofCommandWord w = .run upper) ∧ (code = 4 → Instr.ofCommandWord w = .stop upper)
    ∧ (code = 5 → Instr.ofCommandWord w = .attend upper) ∧ (code = 6 → Instr.ofCommandWord w = .pass upper)
    ∧ (code = 7 → Instr.ofCommandWord w = .clear upper) ∧ (code = 8 → Instr.ofCommandWord w = .engineReset upper)
    ∧ (code = 0 ∨ 9 ≤ code → Instr.ofCommandWord w = .unknownCommandCode w)
    ∧ (Instr.ofCommandWord w).wellFormed = true
    ∧ ∀ s : Machine.State, exec (.unknownCommandCode w) s = exec (.ofCommandWord w) s
      ∧ (s.pending = [] → Machine.step (s.registerWrite 0x08 w) = exec (.ofCommandWord w) s)
      ∧ decodeTableWord 32 w.toNat = some (.ofCommandWord w)
      ∧ Machine.step (s.withFetchWord 32 w.toNat) = exec (.ofCommandWord w) s)
  ∧ ∀ (s : Machine.State) (u : BitVec 24),
    let refused (code : BitVec 8) : Host.Outcome Machine.State Fault Refusal :=
      .next { s with eng := { s.eng with lastRefusal := code, cause := s.eng.cause ||| 0x10 } }
    (s.eng.engine ≠ .detached → exec (.attach u) s = refused 1)
    ∧ (s.eng.engine ≠ .idle → exec (.detach u) s = refused 2)
    ∧ (s.eng.engine ≠ .idle ∨ s.eng.config = none ∨ s.pse.passNumber = 0xFFFFFFFF → exec (.run u) s = refused 3)
    ∧ (s.eng.engine ≠ .running → exec (.stop u) s = refused 4)
    ∧ (s.eng.engine = .detached ∨ s.eng.engine = .attaching ∨ s.eng.engine = .faulted →
      exec (.attend u) s = refused 5)
    ∧ (s.eng.engine ≠ .running ∨ s.eng.config = none ∨ (∃ c, s.eng.config = some c ∧ c.mode = .timer) →
      exec (.pass u) s = refused 6)
    ∧ (s.eng.engine ≠ .faulted ∨ s.eng.faultEntry = true → exec (.clear u) s = refused 7)
    ∧ (∀ w : Word, (w.toNat % 256 = 0 ∨ 9 ≤ w.toNat % 256) → exec (.unknownCommandCode w) s = refused 255)

/-! ### The register window -/

/-- A WBASE write in DETACHED stores the word with its lowest two bits cleared; in any other state it is refused with 16. -/
def Obligations.WbaseWrite : Prop :=
  ∀ (s : Machine.State) (w : Word),
    (s.eng.engine = .detached → ∃ t, exec (.wbaseWrite w) s = .next t
      ∧ t = { s with eng := { s.eng with wbase := t.eng.wbase } }
      ∧ t.eng.wbase.toNat = w.toNat / 4 * 4 ∧ t.readRegister .wbase = t.eng.wbase)
    ∧ (s.eng.engine ≠ .detached →
      exec (.wbaseWrite w) s = .next { s with
        eng := { s.eng with lastRefusal := 16, cause := s.eng.cause ||| 0x10 } })

/-- A CAUSE write clears each cause bit that is 1 in the word, a MASK write stores its lowest five bits, a write to IDENT, STAT or
FADDR changes nothing; INTN is low exactly while a set cause is enabled. -/
def Obligations.CauseMaskAndDisregardedWrites : Prop :=
  ∀ (s : Machine.State) (w : Word),
    (∃ t, exec (.causeWrite w) s = .next t ∧ t = { s with eng := { s.eng with cause := t.eng.cause } }
      ∧ ∀ i < 5, t.eng.cause.getLsbD i = (s.eng.cause.getLsbD i && !w.getLsbD i))
    ∧ (∃ t, exec (.maskWrite w) s = .next t ∧ t = { s with eng := { s.eng with mask := t.eng.mask } }
      ∧ ∀ i < 5, t.eng.mask.getLsbD i = w.getLsbD i)
    ∧ (∀ r, exec (.registerWriteDisregarded r w) s = .next s)
    ∧ (s.intn = false ↔ ∃ i < 5, s.eng.cause.getLsbD i = true ∧ s.eng.mask.getLsbD i = true)

/-- The seven registers stand at the byte offsets 0x00 to 0x18, and no other offset has one: a read at an offset returns the word
its register reads, and a write at an offset is the command of its register. That the command is put at the end of the queue is
log entry 12's, and that a write at any other offset changes nothing log entry 26's: both are the model's choice, not the spec's.
IDENT reads as its constant, CMD as 0, WBASE, CAUSE and MASK as stored, FADDR as the failed access's offset or 0; STAT shows each
field's source at its bits, by the codes of the engine state, the fault kind, the fault client and the attach-failure reason. -/
def Obligations.RegistersShowTheirSources : Prop :=
  ([EngineState.detached, .attaching, .idle, .running, .stopping, .faulted].map EngineState.code = [0, 1, 2, 3, 4, 5]
    ∧ [FaultKind.busError, .timeout].map FaultKind.code = [1, 2]
    ∧ [Client.pse, .evr, .rqh].map Client.code = [1, 2, 3]
    ∧ [AttachReason.none, .signature, .version, .length, .busError].map AttachReason.code = [0, 1, 2, 3, 4])
  ∧ (registerAt 0x00 = some .ident ∧ registerAt 0x04 = some .wbase ∧ registerAt 0x08 = some .cmd
    ∧ registerAt 0x0C = some .stat ∧ registerAt 0x10 = some .cause ∧ registerAt 0x14 = some .mask
    ∧ registerAt 0x18 = some .faddr ∧ ∀ o, (∀ k < 7, o ≠ 4 * k) → registerAt o = none)
  ∧ (∀ w : Word,
    writeCommandAt 0x04 w = some (.wbaseWrite w) ∧ writeCommandAt 0x08 w = some (.ofCommandWord w)
    ∧ writeCommandAt 0x10 w = some (.causeWrite w) ∧ writeCommandAt 0x14 w = some (.maskWrite w)
    ∧ writeCommandAt 0x00 w = some (.registerWriteDisregarded .ident w)
    ∧ writeCommandAt 0x0C w = some (.registerWriteDisregarded .stat w)
    ∧ writeCommandAt 0x18 w = some (.registerWriteDisregarded .faddr w))
  ∧ ∀ s : Machine.State,
    (∀ o, s.readAt o = (registerAt o).map s.readRegister)
    ∧ (∀ o w c, writeCommandAt o w = some c → s.registerWrite o w = { s with pending := s.pending ++ [c] })
    ∧ (∀ o w, registerAt o = none → s.registerWrite o w = s) ∧
    let v := s.readRegister .stat
    s.readRegister .ident = 0x0256A001 ∧ s.readRegister .cmd = 0 ∧ s.readRegister .wbase = s.eng.wbase
    ∧ (s.readRegister .cause).toNat = s.eng.cause.toNat ∧ (s.readRegister .mask).toNat = s.eng.mask.toNat
    ∧ (s.eng.faultRecord = none → s.readRegister .faddr = 0)
    ∧ (∀ k c o, s.eng.faultRecord = some ⟨k, c, o⟩ → o < 2 ^ 32 → (s.readRegister .faddr).toNat = o)
    ∧ (v.extractLsb' 0 3).toNat = s.eng.engine.code
    ∧ v.getLsbD 3 = s.eng.faultEntry ∧ v.getLsbD 4 = s.rqh.waitingForTicket ∧ v.getLsbD 5 = s.evr.ackInvalid
    ∧ v.getLsbD 6 = s.eng.secondFault
    ∧ (v.extractLsb' 7 2).toNat = (match s.eng.faultRecord with | none => 0 | some r => r.kind.code)
    ∧ (v.extractLsb' 9 2).toNat = (match s.eng.faultRecord with | none => 0 | some r => r.client.code)
    ∧ (v.extractLsb' 11 5).toNat = s.eng.lastRefusal.toNat % 32
    ∧ (s.eng.engine ≠ .detached → s.eng.engine ≠ .attaching → v.extractLsb' 16 16 = s.rqh.expectedTicket)
    ∧ (s.eng.engine = .detached ∨ s.eng.engine = .attaching →
      (v.extractLsb' 16 16).toNat = s.eng.attachReason.code)

/-! ### Failed accesses and the bus -/

/-- A client's access that is answered with an error, or not at all, enters FAULTED: the record is filled, PSE, EVR and RQH end
their work, the body under construction is discarded, and every waiting access is withdrawn. Points, zones and live bodies
stand. With a held request whose effect is not taken the abandon-write begins at word 9; otherwise fault entry is complete and
FAULT is raised. A write that failed may have landed (log entry 5), but not a COMPLETE header's state word, whose bank stays FILLING;
the events counted are those of log entry 10. By log entry 13
the running check word's cleared value is 0, and the start stamp and the work bank are kept; the order of the free list is log
entry 14's. -/
def Obligations.FailedAccessEntersFaulted : Prop :=
  ∀ (s : Machine.State) (i : Instr) (kind : FaultKind) (c : Client) (a : Access),
    s.awaited (.client c) = some a →
    ((i = .busTimeout ∧ kind = .timeout) ∨ (s.isErrorAnswer i c = true ∧ kind = .busError)) →
    (c = .rqh → s.rqh.failureFaults = true) → s.placed = true →
    ∃ t, exec i s = .next t
      ∧ t.pse = { s.pse with
          pass := none, pendingTrigger := false, overrunCount := 0, timer := none
          inputChanged := false, activeCount := 0, runningCheck := 0 }
      ∧ (t.evr.w = s.evr.w ∧ t.evr.a = s.evr.a ∧ t.evr.ackInvalid = s.evr.ackInvalid ∧ t.evr.queue = []
        ∧ t.evr.work = .idle ∧ t.evr.dropped = s.evr.dropped + Word.ofNat s.evr.heldEvents.length
        ∧ t.evr.pendingDropped.toNat
            = min 0xFFFFFFFF (s.evr.pendingDropped.toNat + s.evr.heldEvents.length))
      ∧ t.clb.slots = s.clb.slots ∧ t.clb.building = none ∧ t.clb.free = s.clb.free ++ s.clb.buildingBlocks
      ∧ t.ptb = s.ptb ∧ t.zsv = s.zsv ∧ t.pending = s.pending
      ∧ (t.window = s.window ∨ ∃ w, a.op = .write w ∧ t.window = Memory.writeWord s.window (s.busAddress a.offset) w)
      ∧ (∀ w, a.op = .writeState w → t.window = s.window)
      ∧ t.bip.waitEng = none ∧ t.bip.waitRqh = none ∧ t.bip.waitPse = none ∧ t.bip.waitEvr = none
      ∧ t.bip.disregard = false
      ∧ ((∃ h, s.rqh.held = some h ∧ s.rqh.effectTaken = false
            ∧ t.eng = { s.eng with
                engine := .faulted, faultEntry := true, faultRecord := some ⟨kind, c, a.offset⟩ }
            ∧ t.rqh = { s.rqh with
                held := some { h with stage := .abandonWrite false }
                scan := none, scanRequested := false, effectTaken := false }
            ∧ t.bip.inFlight = some ⟨.client .rqh, 64 + 64 * h.slot.val + 36, .write 12⟩)
        ∨ ((s.rqh.held = none ∨ s.rqh.effectTaken = true)
            ∧ t.eng = { s.eng with
                engine := .faulted, faultEntry := false, faultRecord := some ⟨kind, c, a.offset⟩
                cause := s.eng.cause ||| 8 }
            ∧ t.rqh = { s.rqh with held := none, scan := none, scanRequested := false, effectTaken := false }
            ∧ t.bip.inFlight = none))

/-- A disregarded access ends: its outcome goes to no client and is no fault, by an answer, an error or a timeout. The mark is
cleared, and an access that waited may be granted. An answered write stands in the window, a failed one may (log entry 5), but for
a COMPLETE header's state word, whose bank stays FILLING. With no access marked, such an end changes nothing (log entry 1). -/
def Obligations.DisregardedAccessEnds : Prop :=
  (∀ (s : Machine.State) (how : DisregardedEnd), s.bip.inFlight = none ∨ s.bip.disregard = false →
    exec (.disregardedAccessEnd how) s = .next s)
  ∧ ∀ (s : Machine.State) (a : Access) (i : Instr), s.bip.inFlight = some a → s.bip.disregard = true →
    (i = .busTimeout ∨ ∃ how, i = .disregardedAccessEnd how) → s.waitsAdmitted = true →
    ∃ t, exec i s = .next t
      ∧ t.eng = s.eng ∧ t.rqh = s.rqh ∧ t.clb = s.clb ∧ t.ptb = s.ptb ∧ t.zsv = s.zsv ∧ t.pse = s.pse
      ∧ t.evr = s.evr ∧ t.pending = s.pending
      ∧ t.bip = s.bip.ended.afterGrant s.eng.wbase
      ∧ (∀ w, a.op.written = some w → i = .disregardedAccessEnd .answered →
        t.window = Memory.writeWord s.window (s.busAddress a.offset) w)
      ∧ (a.op = .read → t.window = s.window)
      ∧ (∀ w, a.op = .writeState w → i ≠ .disregardedAccessEnd .answered → t.window = s.window)
      ∧ (t.window = s.window
        ∨ ∃ w, a.op.written = some w ∧ t.window = Memory.writeWord s.window (s.busAddress a.offset) w)

/-- The abandon-write: its first word's answer is followed by word 0, REFUSED with kind and ticket kept; word 0's answer counts
REFUSED, raises REQ_DONE and completes fault entry with FAULT. A word that fails sets the second-fault flag instead and
completes fault entry, the fault record as it was. -/
def Obligations.AbandonWriteEnds : Prop :=
  ∀ (s : Machine.State) (h : Held) (word0 : Bool) (a : Access) (w : Word),
    s.rqh.held = some h → h.stage = .abandonWrite word0 → s.awaited (.client .rqh) = some a → a.op = .write w →
    s.waitsAdmitted = true → s.placed = true →
    (word0 = false →
      exec (.abandonWriteAnswer .done) s = .next { s with
        rqh := { s.rqh with held := some { h with stage := .abandonWrite true } }
        window := Memory.writeWord s.window (s.busAddress a.offset) w
        bip := (s.bip.ended.withRqh (64 + 64 * h.slot.val)
          (.write (headWord h.ticket h.kind .refused))).afterGrant s.eng.wbase })
    ∧ (word0 = true →
      exec (.abandonWriteAnswer .done) s = .next { s with
        eng := { s.eng with faultEntry := false, cause := s.eng.cause ||| 1 ||| 8 }
        rqh := { s.rqh with held := none, refused := s.rqh.refused + 1 }
        window := Memory.writeWord s.window (s.busAddress a.offset) w
        bip := s.bip.ended.afterGrant s.eng.wbase })
    ∧ (∀ i, i = .abandonWriteAnswer .error ∨ i = .busTimeout →
      ∃ t, exec i s = .next t
        ∧ t.eng = { s.eng with faultEntry := false, secondFault := true, cause := s.eng.cause ||| 8 }
        ∧ t.rqh = { s.rqh with held := none }
        ∧ t.clb = s.clb ∧ t.ptb = s.ptb ∧ t.zsv = s.zsv ∧ t.pse = s.pse ∧ t.evr = s.evr ∧ t.pending = s.pending
        ∧ t.bip = s.bip.ended.afterGrant s.eng.wbase
        ∧ (t.window = s.window ∨ t.window = Memory.writeWord s.window (s.busAddress a.offset) w))

/-- Only the bytes of the access in flight can change in the window, whatever the command: every other byte reads as before. -/
def Obligations.OnlyTheAccessInFlightChangesTheWindow : Prop :=
  ∀ (c : Instr) (s t : Machine.State), exec c s = .next t →
    ∀ address, ¬ s.inFlightByte address → Memory.readByte t.window address = Memory.readByte s.window address

/-! ### The pass -/

/-- The start stamp of a pass. Even: the pass takes the next number (after the greatest one 0, by log entry 22, in states that no
run reaches), and the hold word is read, after the publication word when a bank is unconfirmed. Odd: the pass is skipped, and
SKIPPED counts it. The pass then ends: RQH scans or remembers the occasion, and a stopping engine goes to IDLE with its timer
stopped, or a pending trigger begins the next pass; an edit that waited is applied before that pass, or released. INPUT_BUSY is
handed when the skip flag was clear, among the events of an applied edit in either order. -/
def Obligations.StartStampAnswered : Prop :=
  ∀ (s : Machine.State) (a : Access) (stamp : Word), s.pse.pass = some .startStamp →
    s.awaited (.client .pse) = some a → s.waitsAdmitted = true → s.placed = true →
    (stamp.getLsbD 0 = false →
      exec (.startStampReadAnswer (.word stamp)) s = .next { s with
        pse := { s.pse with
          pass := some (if s.pse.unconfirmed = none then .holdRead else .unconfirmedRead)
          startStamp := stamp, passNumber := s.pse.passNumber + 1, activeCount := 0, runningCheck := 0xFFFF }
        window := Memory.writeWord s.window (s.busAddress a.offset) stamp
        bip := (s.bip.ended.withPse (if s.pse.unconfirmed = none then 16 else 28) .read).afterGrant s.eng.wbase })
    ∧ (stamp.getLsbD 0 = true →
      let halt : Prop := s.eng.engine = .stopping
      let again : Prop := s.pse.pendingTrigger = true ∧ ¬halt
      ∃ t, exec (.startStampReadAnswer (.word stamp)) s = .next t
        ∧ (halt → t.eng = { s.eng with engine := .idle }) ∧ (¬halt → t.eng = s.eng)
        ∧ t.pse = { s.pse with
            skipped := s.pse.skipped + 1, skipFlag := true, pendingTrigger := false
            pass := t.pse.pass, inputChanged := t.pse.inputChanged, timer := t.pse.timer }
        ∧ (halt → t.pse.timer = none) ∧ (¬halt → t.pse.timer = s.pse.timer)
        ∧ (again → t.pse.pass = some .startStamp ∧ t.pse.inputChanged = false)
        ∧ (¬again → t.pse.pass = none ∧ t.pse.inputChanged = s.pse.inputChanged)
        ∧ t.window = Memory.writeWord s.window (s.busAddress a.offset) stamp ∧ t.pending = s.pending
        ∧ s.passEndWork (Memory.writeWord s.window (s.busAddress a.offset) stamp)
          (s.pse.pendingTrigger = true ∨ halt) again
          (if s.pse.skipFlag then none else some ⟨.inputBusy, 255, stamp, 0, s.pse.passNumber⟩) t
        ∧ (s.rqh.waitingEdit = none → t.clb = s.clb ∧ t.ptb = s.ptb ∧ t.zsv = s.zsv
          ∧ t.rqh = (if s.rqh.busy then { s.rqh with scanRequested := true }
              else { s.rqh with scan := some (.reading 0 (Vector.replicate 16 0)), scanRequested := false })
          ∧ t.evr = (if s.pse.skipFlag then s.evr
              else (s.hand ⟨.inputBusy, 255, stamp, 0, s.pse.passNumber⟩).evr))
        ∧ (∀ h e r, s.rqh.held = some h → h.stage = .awaitApply e r →
          (s.pse.pendingTrigger = true ∨ halt →
            t.clb = (s.applyEdit e).state.clb ∧ t.ptb = (s.applyEdit e).state.ptb
            ∧ t.zsv = (s.applyEdit e).state.zsv
            ∧ t.rqh = { s.rqh with
                scanRequested := true, effectTaken := true
                held := some { h with stage := .finishing .ok (resultWords (s.applyEdit e).words) 0 } })
          ∧ (s.pse.pendingTrigger = false → ¬halt →
            t.clb = s.clb ∧ t.ptb = s.ptb ∧ t.zsv = s.zsv
            ∧ t.rqh = { s.rqh with scanRequested := true, held := some { h with stage := .awaitApply e true } })))

/-- The publication word read for an unconfirmed bank: the bank is taken as published exactly when the word names it with its
pass number modulo 2^30, and is unconfirmed no more; the hold word is read next. The hold word read: the work bank is chosen,
and the FILLING header is begun with its state word. -/
def Obligations.BankWordsAnswered : Prop :=
  ∀ (s : Machine.State) (a : Access) (w : Word),
    s.awaited (.client .pse) = some a → s.waitsAdmitted = true → s.placed = true →
    (∀ (b : Fin 3) (n : Word), s.pse.pass = some .unconfirmedRead → s.pse.unconfirmed = some (b, n) →
      exec (.unconfirmedBankReadAnswer (.word w)) s = .next { s with
        pse := { s.pse with
          pass := some .holdRead, unconfirmed := none
          bankOrder := if w.toNat % 4 = b.val ∧ w.toNat / 4 = n.toNat % 2 ^ 30
            then s.pse.bankOrder.filter (· != b) ++ [b] else s.pse.bankOrder }
        window := Memory.writeWord s.window (s.busAddress a.offset) w
        bip := (s.bip.ended.withPse 16 .read).afterGrant s.eng.wbase })
    ∧ (∀ c, s.pse.pass = some .holdRead → s.eng.config = some c →
      let chosen := s.pse.chooseBank (if h : w.toNat % 4 < 3 then some ⟨w.toNat % 4, h⟩ else none)
      exec (.holdWordReadAnswer (.word w)) s = .next { s with
        pse := { s.pse with pass := some (.fillingHeader 0), workBank := chosen }
        window := Memory.writeWord s.window (s.busAddress a.offset) w
        bip := (s.bip.ended.withPse (c.bankOffset + 2064 * chosen.val) (.write 1)).afterGrant s.eng.wbase })

/-- The work bank is never the published bank nor the held one; a candidate never published since CONFIGURE goes before the
published ones, the lowest-numbered of them first; among candidates all published, none stands earlier in the bank order. With
that, every step that reads the publication word and the banks as the part left them keeps the publication guard, and the guard
gives the law of publication: a bank that the publication word names is COMPLETE and carries its pass number modulo 2^30. -/
def Obligations.WorkBankIsTheOldestCandidate : Prop :=
  (∀ (p : Pse) (hold : Option (Fin 3)),
    let chosen := p.chooseBank hold
    some chosen ≠ p.publishedBank ∧ some chosen ≠ hold
    ∧ ∀ b : Fin 3, some b ≠ p.publishedBank → some b ≠ hold →
      (b ∉ p.bankOrder → chosen ∉ p.bankOrder ∧ chosen ≤ b)
      ∧ (chosen ∈ p.bankOrder → b ∈ p.bankOrder ∧ p.bankOrder.idxOf chosen ≤ p.bankOrder.idxOf b))
  ∧ (∀ s t : Machine.State, step s = .next t → s.engineLaw → s.publicationGuard → s.banksReadAsKnown t →
    t.publicationGuard)
  ∧ (∀ s : Machine.State, s.publicationGuard → s.publicationLaw)

/-- A FILLING header write is answered: the pass number, then 0 and 0, follow the state word; after the fourth word PSE reaches
point 0, here an UNUSED one, whose entry is value 0. -/
def Obligations.FillingHeaderAnswered : Prop :=
  ∀ (s : Machine.State) (a : Access) (c : Configuration) (k : Fin 4) (w : Word),
    s.pse.pass = some (.fillingHeader k) → s.awaited (.client .pse) = some a → a.op = .write w →
    s.eng.config = some c → s.waitsAdmitted = true → s.placed = true →
    (∀ h : k.val + 1 < 4,
      exec (.fillingHeaderWriteAnswer .done) s = .next { s with
        pse := { s.pse with pass := some (.fillingHeader ⟨k.val + 1, h⟩) }
        window := Memory.writeWord s.window (s.busAddress a.offset) w
        bip := (s.bip.ended.withPse (c.bankOffset + 2064 * s.pse.workBank.val + 4 * (k.val + 1))
          (.write (if k = 0 then s.pse.passNumber else 0))).afterGrant s.eng.wbase })
    ∧ (k = 3 → s.ptb.points[(0 : Fin 256)].definition = none →
      exec (.fillingHeaderWriteAnswer .done) s = .next { s with
        pse := { s.pse with pass := some (.entryValue 0 0 0) }
        window := Memory.writeWord s.window (s.busAddress a.offset) w
        bip := (s.bip.ended.withPse (c.bankOffset + 2064 * s.pse.workBank.val + 16) (.write 0)).afterGrant
          s.eng.wbase })
    ∧ (k = 3 → exec (.fillingHeaderWriteAnswer .done) s = .next (({ s with
        window := Memory.writeWord s.window (s.busAddress a.offset) w
        bip := s.bip.ended } : Machine.State).convertPoint c 0).settle)

/-- PSE reaches a point. UNUSED: an entry of zeros, nothing else. RAW with its word inside the input image: one read of it. RAW
outside: the conversion goes on as BAD_RAW. AGGREGATE: it goes on with the function over its usable members. Either conversion is
made whole: working state, zone, events, and the entry's value word on its way. -/
def Obligations.PointReached : Prop :=
  ∀ (s : Machine.State) (c : Configuration) (i : Fin 256),
    (s.ptb.points[i].definition = none →
      s.convertPoint c i = { s with
        pse := { s.pse with pass := some (.entryValue i 0 0) }
        bip := s.bip.withPse (c.bankOffset + 2064 * s.pse.workBank.val + 16 + 8 * i.val) (.write 0) })
    ∧ (∀ d index f lo hi, s.ptb.points[i].definition = some d → d.source = .raw index f lo hi →
      (index < c.inputCount →
        s.convertPoint c i = { s with
          pse := { s.pse with pass := some (.inputRead i) }
          bip := s.bip.withPse (c.inputOffset + 4 * index) .read })
      ∧ (c.inputCount ≤ index → s.convertPoint c i = s.completePoint c i d (.unusable .badRaw)
        ∧ s.converted c i d (.unusable .badRaw) (s.convertPoint c i)))
    ∧ (∀ d first count fn, s.ptb.points[i].definition = some d → d.source = .aggregate first count fn →
      let members : List Int := (List.range count).filterMap (fun k =>
        if h : first + k < 256 then
          (if s.ptb.points[first + k].definition.isSome ∧ s.ptb.points[first + k].usability = .usable
            then some s.ptb.points[first + k].lastOutput.toInt else none)
        else none)
      s.convertPoint c i = s.completePoint c i d (aggregateSource fn members)
      ∧ s.converted c i d (aggregateSource fn members) (s.convertPoint c i))

/-- An input word is answered: the point's history, last output and usability, its zone, the events and its entry are those of the
conversion from its reading; only this point's working state and zone change, and its value word is written to its place in the
bank, waiting for the grant or granted. -/
def Obligations.InputWordAnswered : Prop :=
  ∀ (s : Machine.State) (a : Access) (c : Configuration) (i : Fin 256) (d : PointDef) (index : Nat) (f : RawFormat)
    (lo hi w : Word),
    s.pse.pass = some (.inputRead i) → s.awaited (.client .pse) = some a → s.eng.config = some c →
    s.ptb.points[i].definition = some d → d.source = .raw index f lo hi → s.waitsAdmitted = true → s.placed = true →
    let u := s.ptb.points[i].update d.window (curveStep s.clb d (rawSource f lo hi w))
    let m := s.zsv.evaluate d.zoneSet s.zsv.zones[i] u.point.lastOutput u.quality
    let valueWrite : Access :=
      ⟨.client .pse, c.bankOffset + 2064 * s.pse.workBank.val + 16 + 8 * i.val, .write u.point.lastOutput⟩
    ∃ t, exec (.inputReadAnswer (.word w)) s = .next t
      ∧ t.eng = s.eng ∧ t.rqh = s.rqh ∧ t.clb = s.clb ∧ t.pending = s.pending ∧ t.freeIndex = s.freeIndex
      ∧ t.ptb.points[i] = u.point ∧ (∀ j : Fin 256, j ≠ i → t.ptb.points[j] = s.ptb.points[j])
      ∧ t.zsv.sets = s.zsv.sets ∧ t.zsv.zones[i] = m.zone ∧ (∀ j : Fin 256, j ≠ i → t.zsv.zones[j] = s.zsv.zones[j])
      ∧ t.pse = { s.pse with
          pass := some (.entryValue i u.point.lastOutput (Word.ofNat (u.quality.code + 256 * m.zone.state.code))) }
      ∧ t.evr = (s.handAll (m.events.map (zoneEvent i u.point.lastOutput s.pse.passNumber)
          ++ (u.event.map (qualityEvent i u.point.lastOutput s.pse.passNumber u.quality)).toList)).evr
      ∧ t.window = Memory.writeWord s.window (s.busAddress a.offset) w
      ∧ t.bip.inFlight ≠ none
      ∧ (t.bip.waitPse = some valueWrite ∨ t.bip.inFlight = some valueWrite)
      ∧ ∃ v : Machine.State, t = { v with bip := v.bip.afterGrant s.eng.wbase }
        ∧ ({ s with
            window := Memory.writeWord s.window (s.busAddress a.offset) w
            bip := s.bip.ended } : Machine.State).converted c i d (rawSource f lo hi w) v

/-- An entry write is answered. After the value word the quality-and-zone word is written; after that the entry is folded into
the running check word, an ACTIVE point is counted, and PSE reaches the next point, or after point 255 reads the stamp again. -/
def Obligations.EntryWriteAnswered : Prop :=
  ∀ (s : Machine.State) (a : Access) (c : Configuration) (i : Fin 256) (value qz w : Word),
    s.awaited (.client .pse) = some a → a.op = .write w → s.eng.config = some c → s.waitsAdmitted = true →
    s.placed = true →
    let m := Memory.writeWord s.window (s.busAddress a.offset) w
    let folded : Pse := { s.pse with
      runningCheck := checkWord (checkWord s.pse.runningCheck value) qz
      activeCount := s.pse.activeCount + (if s.ptb.points[i].definition.isSome then 1 else 0) }
    (s.pse.pass = some (.entryValue i value qz) →
      exec (.entryWriteAnswer .done) s = .next { s with
        pse := { s.pse with pass := some (.entryQuality i value qz) }
        window := m
        bip := (s.bip.ended.withPse (c.bankOffset + 2064 * s.pse.workBank.val + 20 + 8 * i.val)
          (.write qz)).afterGrant s.eng.wbase })
    ∧ (s.pse.pass = some (.entryQuality i value qz) →
      (i = 255 →
        exec (.entryWriteAnswer .done) s = .next { s with
          pse := { folded with pass := some .endStamp }
          window := m
          bip := (s.bip.ended.withPse 24 .read).afterGrant s.eng.wbase })
      ∧ (∀ h : i.val + 1 < 256, s.ptb.points[i.val + 1].definition = none →
        exec (.entryWriteAnswer .done) s = .next { s with
          pse := { folded with pass := some (.entryValue ⟨i.val + 1, h⟩ 0 0) }
          window := m
          bip := (s.bip.ended.withPse (c.bankOffset + 2064 * s.pse.workBank.val + 16 + 8 * (i.val + 1))
            (.write 0)).afterGrant s.eng.wbase })
      ∧ (∀ h : i.val + 1 < 256,
        exec (.entryWriteAnswer .done) s = .next (({ s with
          pse := folded, window := m, bip := s.bip.ended } : Machine.State).convertPoint c ⟨i.val + 1, h⟩).settle))

/-- The end stamp sets the input-changed flag when it differs from the start stamp, and the COMPLETE header is written: pass
number, check word, active count, and the state last, by the one write that a failure leaves unwritten; then the publication word,
and the bank is recorded as unconfirmed. -/
def Obligations.CompleteHeaderIsWrittenStateLast : Prop :=
  ∀ (s : Machine.State) (a : Access) (c : Configuration), s.awaited (.client .pse) = some a →
    s.eng.config = some c → s.waitsAdmitted = true → s.placed = true →
    let place (j : Nat) : Nat := c.bankOffset + 2064 * s.pse.workBank.val + 4 * j
    (∀ stamp, s.pse.pass = some .endStamp →
      exec (.endStampReadAnswer (.word stamp)) s = .next { s with
        pse := { s.pse with
          pass := some (.completeHeader 0)
          inputChanged := if stamp = s.pse.startStamp then s.pse.inputChanged else true }
        window := Memory.writeWord s.window (s.busAddress a.offset) stamp
        bip := (s.bip.ended.withPse (place 1) (.write s.pse.passNumber)).afterGrant s.eng.wbase })
    ∧ (∀ w, a.op.written = some w →
      let goesOn (k' : Fin 4) (j : Nat) (op : AccessOp) : Host.Outcome Machine.State Fault Refusal := .next { s with
        pse := { s.pse with pass := some (.completeHeader k') }
        window := Memory.writeWord s.window (s.busAddress a.offset) w
        bip := (s.bip.ended.withPse (place j) op).afterGrant s.eng.wbase }
      (s.pse.pass = some (.completeHeader 0) →
        exec (.completeHeaderWriteAnswer .done) s = goesOn 1 2 (.write (s.pse.runningCheck.setWidth 32)))
      ∧ (s.pse.pass = some (.completeHeader 1) →
        exec (.completeHeaderWriteAnswer .done) s = goesOn 2 3 (.write (Word.ofNat s.pse.activeCount)))
      ∧ (s.pse.pass = some (.completeHeader 2) →
        exec (.completeHeaderWriteAnswer .done) s = goesOn 3 0 (.writeState (if s.pse.inputChanged then 0x102 else 2)))
      ∧ (s.pse.pass = some (.completeHeader 3) →
        exec (.completeHeaderWriteAnswer .done) s = .next { s with
          pse := { s.pse with
            pass := some .publicationWrite, unconfirmed := some (s.pse.workBank, s.pse.passNumber) }
          window := Memory.writeWord s.window (s.busAddress a.offset) w
          bip := (s.bip.ended.withPse 28
            (.write (Word.ofNat (4 * (s.pse.passNumber.toNat % 2 ^ 30) + s.pse.workBank.val)))).afterGrant
              s.eng.wbase }))

/-- The publication word is answered: the work bank is published, PUBLISHED counts the pass, PASS_DONE is raised, the overrun
count is reported and zeroed, the skip flag cleared; and the pass ends: RQH scans or remembers the occasion; a stopping engine,
or one whose pass has the last number, goes to IDLE with its timer stopped; else a pending trigger begins the next pass. An edit
that waited is applied before that pass, or released. OVERRUN is handed when the overrun count is above zero, among the events of
an applied edit in either order. -/
def Obligations.PublicationAnswered : Prop :=
  ∀ (s : Machine.State) (a : Access) (w : Word), s.pse.pass = some .publicationWrite →
    s.awaited (.client .pse) = some a → a.op = .write w → s.waitsAdmitted = true → s.placed = true →
    let halt : Prop := s.eng.engine = .stopping ∨ s.pse.passNumber = 0xFFFFFFFF
    let again : Prop := s.pse.pendingTrigger = true ∧ ¬halt
    ∃ t, exec (.publicationWordWriteAnswer .done) s = .next t
      ∧ (halt → t.eng = { s.eng with engine := .idle, cause := s.eng.cause ||| 2 })
      ∧ (¬halt → t.eng = { s.eng with cause := s.eng.cause ||| 2 })
      ∧ t.pse.bankOrder = s.pse.bankOrder.filter (· != s.pse.workBank) ++ [s.pse.workBank]
      ∧ t.pse.publishedBank = some s.pse.workBank ∧ t.pse.unconfirmed = none
      ∧ t.pse.published = s.pse.published + 1 ∧ t.pse.skipped = s.pse.skipped ∧ t.pse.overruns = s.pse.overruns
      ∧ t.pse.passNumber = s.pse.passNumber ∧ t.pse.overrunCount = 0 ∧ t.pse.skipFlag = false
      ∧ t.pse.pendingTrigger = false
      ∧ (halt → t.pse.timer = none) ∧ (¬halt → t.pse.timer = s.pse.timer)
      ∧ (again → t.pse.pass = some .startStamp ∧ t.pse.inputChanged = false) ∧ (¬again → t.pse.pass = none)
      ∧ t.window = Memory.writeWord s.window (s.busAddress a.offset) w ∧ t.pending = s.pending
      ∧ s.passEndWork (Memory.writeWord s.window (s.busAddress a.offset) w) (s.pse.pendingTrigger = true ∨ halt) again
        (if s.pse.overrunCount = 0 then none else some ⟨.overrun, 255, s.pse.overrunCount, 0, s.pse.passNumber⟩) t
      ∧ (s.rqh.waitingEdit = none → t.clb = s.clb ∧ t.ptb = s.ptb ∧ t.zsv = s.zsv
        ∧ t.rqh = (if s.rqh.busy then { s.rqh with scanRequested := true }
            else { s.rqh with scan := some (.reading 0 (Vector.replicate 16 0)), scanRequested := false })
        ∧ t.evr = (if s.pse.overrunCount = 0 then s.evr
            else (s.hand ⟨.overrun, 255, s.pse.overrunCount, 0, s.pse.passNumber⟩).evr))
      ∧ (∀ h e r, s.rqh.held = some h → h.stage = .awaitApply e r →
        (s.pse.pendingTrigger = true ∨ halt →
          t.clb = (s.applyEdit e).state.clb ∧ t.ptb = (s.applyEdit e).state.ptb ∧ t.zsv = (s.applyEdit e).state.zsv
          ∧ t.rqh = { s.rqh with
              scanRequested := true, effectTaken := true
              held := some { h with stage := .finishing .ok (resultWords (s.applyEdit e).words) 0 } })
        ∧ (s.pse.pendingTrigger = false → ¬halt →
          t.clb = s.clb ∧ t.ptb = s.ptb ∧ t.zsv = s.zsv
          ∧ t.rqh = { s.rqh with scanRequested := true, held := some { h with stage := .awaitApply e true } }))

/-- A released apply step: in NO_PASS the owner's change is made whole, the effect-taken mark is set and the finishing begins;
in IN_PASS the request is held again and nothing else changes. -/
def Obligations.ReleasedApplyStepIsTakenBetweenPasses : Prop :=
  ∀ (s : Machine.State) (h : Held) (e : Edit), s.rqh.held = some h → h.stage = .awaitApply e true →
    (s.pse.pass ≠ none →
      exec .releasedApplyStep s = .next { s with
        rqh := { s.rqh with held := some { h with stage := .awaitApply e false } } })
    ∧ (s.pse.pass = none → s.waitsAdmitted = true → s.placed = true →
      ∃ t, exec .releasedApplyStep s = .next t ∧ s.appliesNow h e t)

/-! ### Requests: scan and take -/

/-- A slot's word 0 is read: the next slot is read; after slot 15 the slots are classified and the scan goes on. -/
def Obligations.ScanReadAnswered : Prop :=
  ∀ (s : Machine.State) (a : Access) (k : Fin 16) (heads : Vector Word 16) (w : Word),
    s.rqh.scan = some (.reading k heads) → s.awaited (.client .rqh) = some a → s.waitsAdmitted = true →
    s.placed = true →
    let m := Memory.writeWord s.window (s.busAddress a.offset) w
    (∀ h : k.val + 1 < 16,
      exec (.scanReadAnswer (.word w)) s = .next { s with
        rqh := { s.rqh with scan := some (.reading ⟨k.val + 1, h⟩ (heads.set k w)) }
        window := m
        bip := (s.bip.ended.withRqh (64 + 64 * (k.val + 1)) .read).afterGrant s.eng.wbase })
    ∧ (k = 15 → ∃ t, exec (.scanReadAnswer (.word w)) s = .next t
        ∧ ({ s with window := m, bip := s.bip.ended } : Machine.State).scanContinues (heads.set 15 w) 0 t)

/-- A stale refusal's write is answered: words 10 to 15, the first with the expected ticket, then word 0 with REFUSED, follow word
9; after word 0 REFUSED is counted, REQ_DONE is raised, and the scan goes on with the slots after. -/
def Obligations.StaleRefusalAnswered : Prop :=
  ∀ (s : Machine.State) (a : Access) (heads : Vector Word 16) (b : Fin 16) (k : Fin 8) (w : Word),
    s.rqh.scan = some (.staleWrite heads b k) → s.awaited (.client .rqh) = some a → a.op = .write w →
    s.waitsAdmitted = true → s.placed = true →
    let m := Memory.writeWord s.window (s.busAddress a.offset) w
    let goesOn (k' : Fin 8) (offset : Nat) (v : Word) : Host.Outcome Machine.State Fault Refusal := .next { s with
      rqh := { s.rqh with scan := some (.staleWrite heads b k') }
      window := m
      bip := (s.bip.ended.withRqh (64 + 64 * b.val + offset) (.write v)).afterGrant s.eng.wbase }
    (k = 0 → exec (.staleRefusalWriteAnswer .done) s = goesOn 1 40 (s.rqh.expectedTicket.setWidth 32))
    ∧ (∀ h : k.val + 1 < 7, 1 ≤ k.val →
      exec (.staleRefusalWriteAnswer .done) s = goesOn ⟨k.val + 1, by omega⟩ (40 + 4 * k.val) 0)
    ∧ (k = 6 → exec (.staleRefusalWriteAnswer .done) s = goesOn 7 0 (withState heads[b] 4))
    ∧ (k = 7 → ∃ t, exec (.staleRefusalWriteAnswer .done) s = .next t
        ∧ ({ s with
            eng := { s.eng with cause := s.eng.cause ||| 1 }
            rqh := { s.rqh with refused := s.rqh.refused + 1 }
            window := m
            bip := s.bip.ended } : Machine.State).scanContinues heads (b.val + 1) t)

/-- The take: the eight parameter words are read in order, TAKEN is written with kind and ticket kept, and at its answer the
request is held, the expected ticket advances, the flag and the mark are cleared, and header word 10 is written. -/
def Obligations.TakeAnswered : Prop :=
  ∀ (s : Machine.State) (a : Access) (b : Fin 16) (head : Word) (params : Vector Word 8) (w : Word),
    s.awaited (.client .rqh) = some a → s.waitsAdmitted = true → s.placed = true →
    let m := Memory.writeWord s.window (s.busAddress a.offset) w
    (∀ k : Fin 8, s.rqh.scan = some (.paramRead b head k params) →
      (∀ h : k.val + 1 < 8,
        exec (.parameterReadAnswer (.word w)) s = .next { s with
          rqh := { s.rqh with scan := some (.paramRead b head ⟨k.val + 1, h⟩ (params.set k w)) }
          window := m
          bip := (s.bip.ended.withRqh (64 + 64 * b.val + 4 * (k.val + 2)) .read).afterGrant s.eng.wbase })
      ∧ (k = 7 →
        exec (.parameterReadAnswer (.word w)) s = .next { s with
          rqh := { s.rqh with scan := some (.takenWrite b head (params.set 7 w)) }
          window := m
          bip := (s.bip.ended.withRqh (64 + 64 * b.val) (.write (withState head 2))).afterGrant s.eng.wbase }))
    ∧ (s.rqh.scan = some (.takenWrite b head params) → a.op = .write w →
      exec (.takenWriteAnswer .done) s = .next { s with
        rqh := { s.rqh with
          held := some ⟨b, head.extractLsb' 8 8, head.extractLsb' 16 16, params, .taken⟩
          expectedTicket := s.rqh.expectedTicket + 1
          waitingForTicket := false
          effectTaken := false
          scan := some .ticketWrite }
        window := m
        bip := (s.bip.ended.withRqh 40 (.write (Word.ofNat (head.toNat / 65536)))).afterGrant s.eng.wbase })

/-! ### Requests: work by kind -/

/-- The take is complete, and the kinds RQH or CLB answers at once are finished: NOP with the pass number as its work begins (log
entry 17, DEDUCED); QUERY_CURVE with the slot's six words; READ_COUNTERS with the five counters and the pass number, zeroing the
counters when asked; a kind from 10 up with BAD_KIND. -/
def Obligations.AnsweredAtOnce : Prop :=
  ∀ (s : Machine.State) (a : Access) (h : Held) (w : Word), s.rqh.scan = some .ticketWrite → s.rqh.held = some h →
    s.awaited (.client .rqh) = some a → a.op = .write w → s.waitsAdmitted = true → s.placed = true →
    let u : Machine.State := { s with
      rqh := { s.rqh with scan := none }
      window := Memory.writeWord s.window (s.busAddress a.offset) w
      bip := s.bip.ended }
    let result := exec (.lastTakenTicketWriteAnswer .done) s
    let counters := [s.pse.published, s.pse.skipped, s.pse.overruns, s.evr.dropped, s.rqh.refused, s.pse.passNumber]
    (h.kind = 0 → result = .next (u.finishing h .ok [s.pse.passNumber]))
    ∧ (10 ≤ h.kind.toNat → result = .next (u.finishing h .badKind [Word.ofNat h.kind.toNat]))
    ∧ (h.kind = 9 → h.params[0].getLsbD 0 = false → result = .next (u.finishing h .ok counters))
    ∧ (h.kind = 9 → h.params[0].getLsbD 0 = true →
      result = .next (({ u with
        pse := { s.pse with published := 0, skipped := 0, overruns := 0 }
        evr := { s.evr with dropped := 0 }
        rqh := { u.rqh with refused := 0, effectTaken := true } } : Machine.State).finishing h .ok counters))
    ∧ (h.kind = 4 → 64 ≤ h.params[0].toNat → result = .next (u.finishing h .badParam []))
    ∧ (∀ c : Fin 64, h.kind = 4 → h.params[0].toNat = c.val →
      let tail := [Word.ofNat s.clb.slots[c].forwardCount, Word.ofNat s.clb.slots[c].inverseCount,
        Word.ofNat s.clb.free.length]
      (s.clb.slots[c].body = none → result = .next (u.finishing h .ok ([0, 0, 0] ++ tail)))
      ∧ (∀ body, s.clb.slots[c].body = some body →
        result = .next (u.finishing h .ok ([Word.ofNat (1 + 65536 * body.shape.kindCode),
          Word.ofNat body.shape.pairs.length,
          Word.ofNat ((if body.invertible then 1 else 0) + (if body.shape.clamp then 2 else 0))] ++ tail))))

/-- DELETE_CURVE, SET_ZONES, CLEAR_POINT and ACK_ZONE are checked when their work begins, the first check that fails giving the
result; a request that passes reaches its apply step. -/
def Obligations.EditRequestsAreChecked : Prop :=
  ∀ (s : Machine.State) (a : Access) (h : Held) (w : Word), s.rqh.scan = some .ticketWrite → s.rqh.held = some h →
    s.awaited (.client .rqh) = some a → a.op = .write w → s.waitsAdmitted = true → s.placed = true →
    let u : Machine.State := { s with
      rqh := { s.rqh with scan := none }
      window := Memory.writeWord s.window (s.busAddress a.offset) w
      bip := s.bip.ended }
    let result := exec (.lastTakenTicketWriteAnswer .done) s
    let p (n : Fin 8) : Word := h.params[n]
    (h.kind = 3 → 64 ≤ (p 0).toNat → result = .next (u.finishing h .badParam []))
    ∧ (∀ c : Fin 64, h.kind = 3 → (p 0).toNat = c.val →
      let slot := s.clb.slots[c]
      (slot.body = none → result = .next (u.finishing h .ok [Word.ofNat s.clb.free.length]))
      ∧ (slot.body ≠ none → 0 < slot.forwardCount ∨ 0 < slot.inverseCount →
        result = .next (u.finishing h .inUse [Word.ofNat slot.forwardCount, Word.ofNat slot.inverseCount]))
      ∧ (slot.body ≠ none → slot.forwardCount = 0 → slot.inverseCount = 0 →
        ∃ t, result = .next t ∧ u.reachesApply h (.delete c) t))
    ∧ (h.kind = 5 →
      let least := (p 1).toInt
      let most := (p 2).toInt
      (64 ≤ (p 0).toNat → result = .next (u.finishing h .badParam [1]))
      ∧ (∀ z : Fin 64, (p 0).toNat = z.val →
        (most < least → result = .next (u.finishing h .badParam [2]))
        ∧ (least ≤ most → most - least < (p 3).toNat → result = .next (u.finishing h .badParam [3]))
        ∧ (least ≤ most → ((p 3).toNat : Int) ≤ most - least → (p 4 = 0 ∨ 15 < (p 4).toNat) →
          result = .next (u.finishing h .badParam [4]))
        ∧ (least ≤ most → ((p 3).toNat : Int) ≤ most - least → 1 ≤ (p 4).toNat → (p 4).toNat ≤ 15 →
          ∃ t, result = .next t
            ∧ u.reachesApply h (.setZones z ⟨true, p 1, p 2, p 3, (p 4).toNat, (p 5).getLsbD 0⟩) t)))
    ∧ (h.kind = 7 → 256 ≤ (p 0).toNat → result = .next (u.finishing h .badParam []))
    ∧ (∀ i : Fin 256, h.kind = 7 → (p 0).toNat = i.val →
      (s.ptb.points[i].definition = none → result = .next (u.finishing h .ok [0, s.pse.passNumber]))
      ∧ (s.ptb.points[i].definition ≠ none → ∃ t, result = .next t ∧ u.reachesApply h (.clearPoint i) t))
    ∧ (h.kind = 8 →
      (2 ≤ (p 0).toNat → result = .next (u.finishing h .badParam [1]))
      ∧ (p 0 = 0 → 256 ≤ (p 1).toNat → result = .next (u.finishing h .badParam [2]))
      ∧ (p 0 = 1 → 64 ≤ (p 1).toNat → result = .next (u.finishing h .badParam [3]))
      ∧ (∀ i : Fin 256, p 0 = 0 → (p 1).toNat = i.val →
        ∃ t, result = .next t ∧ u.reachesApply h (.ackZone (.point i)) t)
      ∧ (∀ z : Fin 64, p 0 = 1 → (p 1).toNat = z.val →
        ∃ t, result = .next t ∧ u.reachesApply h (.ackZone (.zoneSet z)) t))

/-- SET_POINT is checked in the order of its fourteen reasons, then against the live body it binds INVERSE to; a request that
passes reaches its apply step with the definition its words give. -/
def Obligations.SetPointIsChecked : Prop :=
  ∀ (s : Machine.State) (a : Access) (h : Held) (w : Word), s.rqh.scan = some .ticketWrite → s.rqh.held = some h →
    s.awaited (.client .rqh) = some a → a.op = .write w → s.waitsAdmitted = true → s.placed = true → h.kind = 6 →
    let u : Machine.State := { s with
      rqh := { s.rqh with scan := none }
      window := Memory.writeWord s.window (s.busAddress a.offset) w
      bip := s.bip.ended }
    let result := exec (.lastTakenTicketWriteAnswer .done) s
    let p (n : Fin 8) : Word := h.params[n]
    let limit : Nat := match s.eng.config with | some c => c.inputCount | none => 1024
    let curve := (p 6).toNat % 256
    let direction := (p 6).toNat / 256 % 256
    let zoneSet := (p 7).toNat % 256
    let window := (p 7).toNat / 256 % 256
    let raw : Prop := p 1 = 0
    let aggregate : Prop := p 1 = 1
    let least : Int := if p 3 = 0 then -32768 else if p 3 = 1 then 0 else -2147483648
    let greatest : Int := if p 3 = 0 then 32767 else if p 3 = 1 then 65535 else 2147483647
    let fails (reason : Nat) : Prop :=
      match reason with
      | 1 => 256 ≤ (p 0).toNat
      | 2 => ¬raw ∧ ¬aggregate
      | 3 => raw ∧ 3 ≤ (p 3).toNat
      | 4 => raw ∧ limit ≤ (p 2).toNat
      | 5 => raw ∧ ((p 4).toInt < least ∨ greatest < (p 4).toInt ∨ (p 5).toInt < least ∨ greatest < (p 5).toInt
          ∨ (p 5).toInt < (p 4).toInt)
      | 6 => aggregate ∧ ((p 3).toNat < 2 ∨ 16 < (p 3).toNat)
      | 7 => aggregate ∧ 4 ≤ (p 4).toNat
      | 8 => aggregate ∧ (p 0).toNat ≤ (p 2).toNat + (p 3).toNat - 1
      | 9 => 64 ≤ curve ∧ curve ≠ 255
      | 10 => 2 ≤ direction
      | 11 => direction = 1 ∧ curve = 255
      | 12 => 64 ≤ zoneSet ∧ zoneSet ≠ 255
      | 13 => ∃ z : Fin 64, zoneSet = z.val ∧ s.zsv.sets[z].written = false
      | 14 => window < 1 ∨ 16 < window
      | _ => False
    (∀ reason, fails reason → (∀ earlier < reason, ¬fails earlier) →
      result = .next (u.finishing h .badParam
        (if reason = 4 then [4, Word.ofNat limit] else [Word.ofNat reason])))
    ∧ ((∀ reason, ¬fails reason) →
      (∀ (c : Fin 64) (body : Body), curve = c.val → direction = 1 → s.clb.slots[c].body = some body →
        body.invertible = false →
        result = .next (u.finishing h .notInvertible [Word.ofNat body.shape.kindCode]))
      ∧ ((∀ (c : Fin 64) (body : Body), curve = c.val → direction = 1 → s.clb.slots[c].body = some body →
          body.invertible = true) →
        ∃ (i : Fin 256) (d : PointDef) (t : Machine.State), result = .next t ∧ u.reachesApply h (.setPoint i d) t
          ∧ i.val = (p 0).toNat
          ∧ (raw → d.source = .raw (p 2).toNat (if p 3 = 0 then .s16 else if p 3 = 1 then .u16 else .s32) (p 4) (p 5))
          ∧ (aggregate → d.source = .aggregate (p 2).toNat (p 3).toNat
              (if p 4 = 0 then .mean else if p 4 = 1 then .sum else if p 4 = 2 then .min else .max))
          ∧ d.curve.map Fin.val = (if curve = 255 then none else some curve)
          ∧ d.direction = (if direction = 1 then .inverse else .forward)
          ∧ d.zoneSet.map Fin.val = (if zoneSet = 255 then none else some zoneSet)
          ∧ d.window = window))

/-- CONFIGURE is checked against the engine state, then in the order of its seven reasons. One that passes takes its effect in the
step: no configuration, pass engine and recorder at their CONFIGURE values, the publication word NONE on its way. At that
word's answer the new configuration is stored and the request finishes. DROPPED counts the event behind a LOST record by log entry
10 (DEDUCED). -/
def Obligations.ConfigureIsCheckedAndStored : Prop :=
  ∀ (s : Machine.State) (a : Access) (h : Held) (w : Word), s.rqh.held = some h → a.op = .write w →
    s.waitsAdmitted = true → s.placed = true →
    let u : Machine.State := { s with
      rqh := { s.rqh with scan := none }
      window := Memory.writeWord s.window (s.busAddress a.offset) w
      bip := s.bip.ended }
    let result := exec (.lastTakenTicketWriteAnswer .done) s
    let p (n : Fin 8) : Nat := h.params[n].toNat
    let length := s.eng.windowLength.getD 0
    let start (area : Nat) : Nat := if area = 2 then p 0 else if area = 3 then p 2 else if area = 4 then p 3 else 0
    let stop (area : Nat) : Nat :=
      if area = 2 then p 0 + 4 * p 1 else if area = 3 then p 2 + 6192 else if area = 4 then p 3 + 16 * p 4 else 1088
    let fails (reason : Nat) (words : List Word) : Prop :=
      match reason, words with
      | 1, [] => p 1 < 1 ∨ 1024 < p 1
      | 2, [] => p 4 < 16 ∨ 1024 < p 4
      | 3, [] => p 5 < 1 ∨ 65535 < p 5
      | 4, [] => 2 < p 6
      | 5, [n] => ∃ k ∈ [2, 3, 4], n = Word.ofNat k ∧ start k % 4 ≠ 0 ∧ ∀ j, 2 ≤ j → j < k → start j % 4 = 0
      | 6, [n, l] => ∃ k ∈ [2, 3, 4], n = Word.ofNat k ∧ l = Word.ofNat length ∧ length < stop k
          ∧ ∀ j, 2 ≤ j → j < k → stop j ≤ length
      | 7, [n, n'] => ∃ k k', 1 ≤ k ∧ k < k' ∧ k' ≤ 4 ∧ n = Word.ofNat k ∧ n' = Word.ofNat k'
          ∧ start k < stop k' ∧ start k' < stop k
          ∧ ∀ j j', 1 ≤ j → j < j' → j' ≤ 4 → (j < k ∨ (j = k ∧ j' < k')) →
            ¬(start j < stop j' ∧ start j' < stop j)
      | _, _ => False
    (s.rqh.scan = some .ticketWrite → s.awaited (.client .rqh) = some a → h.kind = 1 →
      (s.eng.engine ≠ .idle →
        result = .next (u.finishing h .wrongState [Word.ofNat s.eng.engine.code]))
      ∧ (s.eng.engine = .idle →
        (∀ reason words, fails reason words → (∀ earlier < reason, ∀ ws, ¬fails earlier ws) →
          result = .next (u.finishing h .badParam (Word.ofNat reason :: words)))
        ∧ ((∀ reason words, ¬fails reason words) →
          let new : Configuration := ⟨p 0, p 1, p 2, p 3, p 4, p 5,
            if p 6 = 0 then .timer else if p 6 = 1 then .command else .both⟩
          result = .next { u with
            eng := { s.eng with config := none }
            pse := { s.pse with
              passNumber := 0, bankOrder := [], unconfirmed := none, overrunCount := 0, skipFlag := false }
            evr := ⟨0, 0, 0, false, [], .idle, s.evr.dropped + Word.ofNat s.evr.heldEvents.length⟩
            rqh := { u.rqh with
              held := some { h with stage := .configureWrite new s.eng.config.isSome s.pse.passNumber } }
            bip := (({ u.bip with waitEvr := none } : Bip).withPse 28 (.write 3)).afterGrant s.eng.wbase })))
    ∧ (∀ new had old, h.stage = .configureWrite new had old → s.awaited (.client .pse) = some a →
      exec (.configurePublicationWriteAnswer .done) s = .next (({ s with
        eng := { s.eng with config := some new }
        rqh := { s.rqh with effectTaken := true }
        window := u.window
        bip := s.bip.ended } : Machine.State).finishing h .ok [Word.ofBool had, old]))

/-- LOAD_CURVE: its parameters and its image's place are checked, then the image is read word by word into the construction
buffer. A read that fails refuses the request with BUS_ERROR and the engine goes on. After the last word the first check that
fails refuses the request and discards the body; one that passes reserves blocks and reaches its installation. The order of the
three parameter reasons is log entry 23's, that of the free list log entry 14's. -/
def Obligations.LoadCurveReadsItsImage : Prop :=
  ∀ (s : Machine.State) (a : Access) (h : Held) (w : Word), s.rqh.held = some h → s.awaited (.client .rqh) = some a →
    s.waitsAdmitted = true → s.placed = true →
    let m := Memory.writeWord s.window (s.busAddress a.offset) w
    (s.rqh.scan = some .ticketWrite → h.kind = 2 → a.op = .write w →
      let u : Machine.State := { s with rqh := { s.rqh with scan := none }, window := m, bip := s.bip.ended }
      let result := exec (.lastTakenTicketWriteAnswer .done) s
      let p (n : Fin 8) : Nat := h.params[n].toNat
      let length := s.eng.windowLength.getD 0
      (64 ≤ p 0 → result = .next (u.finishing h .badParam [1]))
      ∧ (p 0 < 64 → p 1 % 4 ≠ 0 → result = .next (u.finishing h .badParam [2]))
      ∧ (p 0 < 64 → p 1 % 4 = 0 → (p 2 < 6 ∨ 131 < p 2) → result = .next (u.finishing h .badParam [3]))
      ∧ (∀ c : Fin 64, p 0 = c.val → p 1 % 4 = 0 → 6 ≤ p 2 → p 2 ≤ 131 →
        (length < p 1 + 4 * p 2 → result = .next (u.finishing h .outOfWindow [Word.ofNat length]))
        ∧ (p 1 + 4 * p 2 ≤ length → s.clb.building = none →
          result = .next { u with
            clb := { s.clb with building := some ⟨c, p 1, p 2, [], none⟩ }
            rqh := { u.rqh with held := some { h with stage := .imageRead } }
            bip := (u.bip.withRqh (p 1) .read).afterGrant s.eng.wbase })))
    ∧ (∀ b, h.stage = .imageRead → s.clb.building = some b → b.body = none → a.op = .read →
      (∀ i code, (i = .imageReadAnswer .error ∧ code = 1) ∨ (i = .busTimeout ∧ code = 2) →
        exec i s = .next (({ s with
          clb := { s.clb with building := none }
          bip := s.bip.ended } : Machine.State).finishing h .busError [Word.ofNat a.offset, code]))
      ∧ (b.buffer.length + 1 < b.length →
        (∀ l, s.eng.windowLength = some l → b.offset + 4 * b.length ≤ l) →
        exec (.imageReadAnswer (.word w)) s = .next { s with
          clb := { s.clb with building := some { b with buffer := b.buffer ++ [w] } }
          window := m
          bip := (s.bip.ended.withRqh (b.offset + 4 * (b.buffer.length + 1)) .read).afterGrant s.eng.wbase })
      ∧ (b.length ≤ b.buffer.length + 1 →
        let whole : Building := { b with buffer := b.buffer ++ [w] }
        let v : Machine.State := { s with
          clb := { s.clb with building := some whole }, window := m, bip := s.bip.ended }
        (∀ r, v.clb.checkImage whole = .error r →
          exec (.imageReadAnswer (.word w)) s = .next
            (({ v with clb := { s.clb with building := none } } : Machine.State).finishing h r.1 r.2))
        ∧ (∀ shape, v.clb.checkImage whole = .ok shape →
          let needed := shape.blocksNeeded
          ∃ t, exec (.imageReadAnswer (.word w)) s = .next t
            ∧ ({ v with clb := { s.clb with
                free := s.clb.free.drop needed
                building := some { whole with
                  body := some ⟨shape, shape.isInvertible, s.clb.free.take needed⟩ } } }
              : Machine.State).reachesApply h (.install b.target) t)))

/-- The check word of a run of words takes each word's bytes low first, each byte into the register's high eight bits, then eight
shifts. The checks of a whole image, in order: the check word in all 32 bits, the seven conditions of structure, the binding of the
target slot, the free blocks. An image that passes gives the body its words name, as many blocks as its pairs need. A LINEAR2 body
is invertible exactly when its y values differ, a RATIO body always, a ROOT body never, a SEGMENTED body exactly when its y values
are strictly ascending or strictly descending. -/
def Obligations.CurveImageIsChecked : Prop :=
  ((∀ (xLo xHi yLo yHi : Word) (clamp : Bool),
      (CurveShape.linear2 xLo xHi yLo yHi clamp).isInvertible = true ↔ yLo.toInt ≠ yHi.toInt)
    ∧ (∀ a b c : Word, (CurveShape.ratio a b c).isInvertible = true)
    ∧ (∀ x0 c m y0 : Word, (CurveShape.root x0 c m y0).isInvertible = false)
    ∧ (∀ (first : Pair) (rest : List Pair),
      let pairs := first :: rest
      (CurveShape.segmented first rest).isInvertible = true ↔
        (∀ (i : Nat) (h : i + 1 < pairs.length), pairs[i].y.toInt < pairs[i + 1].y.toInt)
        ∨ (∀ (i : Nat) (h : i + 1 < pairs.length), pairs[i + 1].y.toInt < pairs[i].y.toInt)))
  ∧ (let shifted (r : BitVec 16) : BitVec 16 :=
      BitVec.ofNat 16 (2 * r.toNat) ^^^ (if 32768 ≤ r.toNat then 0x1021 else 0)
    let fed (r : BitVec 16) (byte : Nat) : BitVec 16 :=
      (List.range 8).foldl (fun r _ => shifted r) (r ^^^ BitVec.ofNat 16 (256 * byte))
    (∀ (r : BitVec 16) (w : Word), checkWord r w
      = [w.toNat % 256, w.toNat / 256 % 256, w.toNat / 65536 % 256, w.toNat / 16777216].foldl fed r)
    ∧ (∀ words : List Word, checkOfWords words = words.foldl checkWord 0xFFFF)
    ∧ [0x31, 0x32, 0x33, 0x34, 0x35, 0x36, 0x37, 0x38, 0x39].foldl fed 0xFFFF = 0x29B1)
  ∧ ∀ (clb : Clb) (b : Building), b.body = none →
    let image (n : Nat) : Word := b.buffer.getD n 0
    let computed : Word := (checkOfWords b.buffer.dropLast).setWidth 32
    let kind := (image 0).toNat % 256
    let count := (image 0).toNat / 256 % 256
    let required := if kind = 1 then 7 else if kind = 2 then 6 else if kind = 3 then 7 else 3 + 2 * count
    let outside (n : Nat) : Prop := image n = 0 ∨ 65535 < (image n).toNat
    let x (i : Nat) : Int := (image (2 + 2 * i)).toInt
    let slot := clb.slots[b.target]
    let fails (reason index : Nat) : Prop :=
      match reason with
      | 1 => (image 0).toNat / 65536 ≠ 0x4356 ∧ index = 0
      | 2 => (kind = 0 ∨ 4 < kind) ∧ index = 0
      | 3 => (if kind = 4 then count < 2 ∨ 64 < count else count ≠ 0) ∧ index = 0
      | 4 => b.length ≠ required ∧ index = required
      | 5 => (kind = 2 ∧ ((outside 2 ∧ index = 2) ∨ (¬outside 2 ∧ outside 3 ∧ index = 3)))
          ∨ (kind = 3 ∧ (((image 3).msb = true ∧ index = 3)
            ∨ ((image 3).msb = false ∧ image 4 = 0 ∧ index = 4)))
      | 6 => kind = 1 ∧ image 2 = image 3 ∧ index = 3
      | 7 => kind = 4 ∧ ∃ i, i + 1 < count ∧ x (i + 1) ≤ x i ∧ (∀ j < i, x j < x (j + 1)) ∧ index = 4 + 2 * i
      | _ => False
    (b.buffer.getLastD 0 ≠ computed →
      clb.checkImage b = .error (.checkFailed, [computed, b.buffer.getLastD 0]))
    ∧ (b.buffer.getLastD 0 = computed →
      (∀ reason index, fails reason index → (∀ earlier < reason, ∀ n, ¬fails earlier n) →
        clb.checkImage b = .error (.malformed, [Word.ofNat reason, Word.ofNat index]))
      ∧ ((∀ reason index, ¬fails reason index) → ∃ shape : CurveShape,
        shape.kindCode = kind
        ∧ (kind = 1 → shape = .linear2 (image 2) (image 3) (image 4) (image 5) ((image 1).getLsbD 0))
        ∧ (kind = 2 → shape = .ratio (image 2) (image 3) (image 4))
        ∧ (kind = 3 → shape = .root (image 2) (image 3) (image 4) (image 5))
        ∧ (kind = 4 → shape.pairs = (List.range count).map (fun i => ⟨image (2 + 2 * i), image (3 + 2 * i)⟩))
        ∧ shape.blocksNeeded = (if kind = 4 then (count + 15) / 16 else 0)
        ∧ (0 < slot.inverseCount → shape.isInvertible = false →
          clb.checkImage b = .error (.bindingConflict, [Word.ofNat slot.inverseCount]))
        ∧ (slot.inverseCount = 0 ∨ shape.isInvertible = true →
          (clb.free.length < shape.blocksNeeded → clb.building = some b →
            clb.checkImage b = .error (.noRoom, [Word.ofNat shape.blocksNeeded, Word.ofNat clb.free.length]))
          ∧ (shape.blocksNeeded ≤ clb.free.length → clb.checkImage b = .ok shape))))

/-- A finishing write is answered: the result words in order, then word 0, DONE for OK and REFUSED otherwise with kind and ticket
kept. At word 0's answer the request is released, REFUSED counts a refusal, REQ_DONE is raised, and a scan begins. The result codes
have the numbers 0 to 13. -/
def Obligations.FinishingAnswered : Prop :=
  ([ResultCode.ok, .badKind, .badParam, .wrongState, .noRoom, .inUse, .notInvertible, .bindingConflict, .checkFailed,
      .malformed, .outOfWindow, .busError, .aborted, .staleTicket].map ResultCode.code
    = [0, 1, 2, 3, 4, 5, 6, 7, 8, 9, 10, 11, 12, 13])
  ∧ ∀ (s : Machine.State) (a : Access) (h : Held) (code : ResultCode) (results : Vector Word 6) (k : Fin 8) (w : Word),
    s.rqh.held = some h → h.stage = .finishing code results k → s.awaited (.client .rqh) = some a →
    a.op = .write w → s.waitsAdmitted = true → s.placed = true →
    let m := Memory.writeWord s.window (s.busAddress a.offset) w
    let goesOn (k' : Fin 8) (offset : Nat) (v : Word) : Host.Outcome Machine.State Fault Refusal := .next { s with
      rqh := { s.rqh with held := some { h with stage := .finishing code results k' } }
      window := m
      bip := (s.bip.ended.withRqh (64 + 64 * h.slot.val + offset) (.write v)).afterGrant s.eng.wbase }
    (∀ hk : k.val < 6,
      exec (.finishingWriteAnswer .done) s = goesOn ⟨k.val + 1, by omega⟩ (40 + 4 * k.val) results[k.val])
    ∧ (k = 6 → exec (.finishingWriteAnswer .done) s = goesOn 7 0
        (Word.ofNat (65536 * h.ticket.toNat + 256 * h.kind.toNat + (if code = .ok then 3 else 4))))
    ∧ (k = 7 → s.rqh.scan = none →
      exec (.finishingWriteAnswer .done) s = .next { s with
        eng := { s.eng with cause := s.eng.cause ||| 1 }
        rqh := { s.rqh with
          held := none, effectTaken := false
          refused := if code = .ok then s.rqh.refused else s.rqh.refused + 1
          scan := some (.reading 0 (Vector.replicate 16 0)), scanRequested := false }
        window := m
        bip := (s.bip.ended.withRqh 64 .read).afterGrant s.eng.wbase })

/-! ### The recorder -/

/-- The acknowledge word is read: it is accepted when it stands at most the capacity below W, and refused otherwise, which the
ack-invalid flag shows. With room after it, the event's record is begun, or the LOST record before it; without, the event is
dropped and the recorder goes on. -/
def Obligations.AckWordAnswered : Prop :=
  ∀ (s : Machine.State) (a : Access) (c : Configuration) (lostFirst : Bool) (e : Event) (v : Word),
    s.evr.work = .readingAck lostFirst e → s.awaited (.client .evr) = some a → s.eng.config = some c →
    s.waitsAdmitted = true → s.placed = true →
    let tested : Evr := if (s.evr.w.toNat + 2 ^ 32 - v.toNat) % 2 ^ 32 ≤ c.stripCapacity
      then { s.evr with a := v, ackInvalid := false } else { s.evr with ackInvalid := true }
    let room : Prop := (s.evr.w - tested.a).toNat < c.stripCapacity
    let m := Memory.writeWord s.window (s.busAddress a.offset) v
    let begun (x : Event) (behind : Option Event) : Host.Outcome Machine.State Fault Refusal := .next { s with
      evr := { tested with work := .writing (s.evr.w + 1) x 0 behind }
      window := m
      bip := (s.bip.ended.withEvr (c.stripOffset + 16 * (s.evr.w.toNat % c.stripCapacity) + 4)
        (.write (Word.ofNat (x.kind.code + 256 * x.point.toNat + 65536 * x.aux.toNat)))).afterGrant s.eng.wbase }
    (s.evr.w ≠ 0xFFFFFFFF → room → lostFirst = false → exec (.ackWordReadAnswer (.word v)) s = begun e none)
    ∧ (s.evr.w ≠ 0xFFFFFFFF → room → lostFirst = true →
      exec (.ackWordReadAnswer (.word v)) s
        = begun ⟨.lost, 255, s.evr.pendingDropped, 0, s.pse.passNumber⟩ (some e))
    ∧ (¬room → s.evr.queue = [] →
      exec (.ackWordReadAnswer (.word v)) s = .next { s with
        evr := { tested with
          work := .idle
          pendingDropped := if s.evr.pendingDropped = 0xFFFFFFFF then 0xFFFFFFFF else s.evr.pendingDropped + 1
          dropped := s.evr.dropped + 1 }
        window := m
        bip := s.bip.ended.afterGrant s.eng.wbase })
    ∧ (¬room → exec (.ackWordReadAnswer (.word v)) s = .next (({ s with
        evr := tested.drop, window := m, bip := s.bip.ended } : Machine.State).nextEvent.settle))

/-- A record's write is answered. The words follow in the order 1, 2, 3, 0, high water; at word 0's answer W takes the record's
number and a LOST record's count comes off the pending dropped count; at the high-water word's answer the record is finished and
EVENT raised. With room the record of the next event then begins, the one behind a LOST record or the oldest of the queue, which a
LOST record precedes while drops are pending; with the view full the acknowledge word is read. When the record took the greatest
number, every event of the queue is dropped and counted, and the one behind a LOST record with them (log entry 25, DEDUCED). -/
def Obligations.RecordWordAnswered : Prop :=
  ∀ (s : Machine.State) (a : Access) (c : Configuration) (seq : Word) (e : Event) (behind : Option Event) (w : Word),
    s.awaited (.client .evr) = some a → a.op = .write w → s.eng.config = some c → s.waitsAdmitted = true →
    s.placed = true →
    let m := Memory.writeWord s.window (s.busAddress a.offset) w
    let place (n : Nat) : Nat := c.stripOffset + 16 * ((seq.toNat - 1) % c.stripCapacity) + 4 * n
    let goesOn (r : Evr) (offset : Nat) (v : Word) : Host.Outcome Machine.State Fault Refusal := .next { s with
      evr := r
      window := m
      bip := (s.bip.ended.withEvr offset (.write v)).afterGrant s.eng.wbase }
    let raised : Eng := { s.eng with cause := s.eng.cause ||| 4 }
    (s.evr.work = .writing seq e 0 behind →
      exec (.recordWordWriteAnswer .done) s
        = goesOn { s.evr with work := .writing seq e 1 behind } (place 2) e.value)
    ∧ (s.evr.work = .writing seq e 1 behind →
      exec (.recordWordWriteAnswer .done) s
        = goesOn { s.evr with work := .writing seq e 2 behind } (place 3) e.passNumber)
    ∧ (s.evr.work = .writing seq e 2 behind →
      exec (.recordWordWriteAnswer .done) s = goesOn { s.evr with work := .writing seq e 3 behind } (place 0) seq)
    ∧ (s.evr.work = .writing seq e 3 behind →
      exec (.recordWordWriteAnswer .done) s = goesOn { s.evr with
        work := .writing seq e 4 behind
        w := seq
        pendingDropped := if e.kind = .lost then s.evr.pendingDropped - e.value else s.evr.pendingDropped } 36 seq)
    ∧ (s.evr.work = .writing seq e 4 none → s.evr.queue = [] →
      exec (.highWaterWriteAnswer .done) s = .next { s with
        eng := raised
        evr := { s.evr with work := .idle }
        window := m
        bip := s.bip.ended.afterGrant s.eng.wbase })
    ∧ (s.evr.work = .writing seq e 4 behind → s.evr.w = 0xFFFFFFFF →
      let n := behind.toList.length + s.evr.queue.length
      exec (.highWaterWriteAnswer .done) s = .next { s with
        eng := raised
        evr := { s.evr with
          queue := [], work := .idle
          pendingDropped := Word.ofNat (min 0xFFFFFFFF (s.evr.pendingDropped.toNat + n))
          dropped := s.evr.dropped + Word.ofNat n }
        window := m
        bip := s.bip.ended.afterGrant s.eng.wbase })
    ∧ (∀ next rest (lostFirst : Bool) (w1 : Word), s.evr.w ≠ 0xFFFFFFFF →
      ((s.evr.work = .writing seq e 4 none ∧ s.evr.queue = next :: rest ∧ lostFirst = (s.evr.pendingDropped != 0))
        ∨ (s.evr.work = .writing seq e 4 (some next) ∧ s.evr.queue = rest ∧ lostFirst = false)) →
      let room : Prop := (s.evr.w - s.evr.a).toNat < c.stripCapacity
      let first : Event :=
        if lostFirst then ⟨.lost, 255, s.evr.pendingDropped, 0, s.pse.passNumber⟩ else next
      (room → w1 = Word.ofNat (first.kind.code + 256 * first.point.toNat + 65536 * first.aux.toNat) →
        exec (.highWaterWriteAnswer .done) s = .next { s with
          eng := raised
          evr := { s.evr with
            queue := rest
            work := .writing (s.evr.w + 1) first 0 (if lostFirst then some next else none) }
          window := m
          bip := (s.bip.ended.withEvr (c.stripOffset + 16 * (s.evr.w.toNat % c.stripCapacity) + 4)
            (.write w1)).afterGrant s.eng.wbase })
      ∧ (¬room →
        exec (.highWaterWriteAnswer .done) s = .next { s with
          eng := raised
          evr := { s.evr with queue := rest, work := .readingAck lostFirst next }
          window := m
          bip := (s.bip.ended.withEvr 20 .read).afterGrant s.eng.wbase }))

/-- An event handed to the recorder joins the end of its queue, and is dropped and counted when the queue holds 64. An idle
recorder takes it at once (log entry 9): with room it begins its record, or with drops pending the LOST record before it; with the
view full it reads the acknowledge word; with its last number taken it drops the event. Without a configuration nothing
happens. The kinds' codes, which word 1 of a record carries, are 1 to 10. -/
def Obligations.EventsAreHanded : Prop :=
  ([EventKind.highEnter, .highLeave, .lowEnter, .lowLeave, .pointBad, .pointGood, .curveInstalled, .overrun, .inputBusy,
      .lost].map EventKind.code = [1, 2, 3, 4, 5, 6, 7, 8, 9, 10])
  ∧ ∀ (s : Machine.State) (e : Event),
    (s.eng.config = none → s.hand e = s)
    ∧ (∀ c, s.eng.config = some c →
      (64 ≤ s.evr.queue.length →
        s.hand e = { s with evr := { s.evr with
          pendingDropped := if s.evr.pendingDropped = 0xFFFFFFFF then 0xFFFFFFFF else s.evr.pendingDropped + 1
          dropped := s.evr.dropped + 1 } })
      ∧ (s.evr.queue.length < 64 → s.evr.work ≠ .idle →
        s.hand e = { s with evr := { s.evr with queue := s.evr.queue ++ [e] } })
      ∧ (s.evr.work = .idle → s.evr.queue = [] → s.evr.w ≠ 0xFFFFFFFF → s.evr.pendingDropped = 0 →
        (s.evr.w - s.evr.a).toNat < c.stripCapacity →
        s.hand e = { s with
          evr := { s.evr with work := .writing (s.evr.w + 1) e 0 none }
          bip := s.bip.withEvr (c.stripOffset + 16 * (s.evr.w.toNat % c.stripCapacity) + 4)
            (.write (Word.ofNat (e.kind.code + 256 * e.point.toNat + 65536 * e.aux.toNat))) })
      ∧ (s.evr.work = .idle → s.evr.queue = [] → s.evr.w ≠ 0xFFFFFFFF → s.evr.pendingDropped ≠ 0 →
        (s.evr.w - s.evr.a).toNat < c.stripCapacity →
        s.hand e = { s with
          evr := { s.evr with
            work := .writing (s.evr.w + 1) ⟨.lost, 255, s.evr.pendingDropped, 0, s.pse.passNumber⟩ 0 (some e) }
          bip := s.bip.withEvr (c.stripOffset + 16 * (s.evr.w.toNat % c.stripCapacity) + 4)
            (.write (Word.ofNat (10 + 256 * 255))) })
      ∧ (s.evr.work = .idle → s.evr.queue = [] → s.evr.w ≠ 0xFFFFFFFF →
        c.stripCapacity ≤ (s.evr.w - s.evr.a).toNat →
        s.hand e = { s with
          evr := { s.evr with work := .readingAck (s.evr.pendingDropped != 0) e }
          bip := s.bip.withEvr 20 .read })
      ∧ (s.evr.work = .idle → s.evr.queue = [] → s.evr.w = 0xFFFFFFFF →
        s.hand e = { s with evr := { s.evr with
          pendingDropped := if s.evr.pendingDropped = 0xFFFFFFFF then 0xFFFFFFFF else s.evr.pendingDropped + 1
          dropped := s.evr.dropped + 1 } }))

/-! ### Apply steps -/

/-- Installation: the old body's blocks become free, the body under construction becomes the slot's live body with its blocks, and
the history of every point bound to the slot is emptied; one event. Deletion: the slot is EMPTY and its blocks are free. Counts,
definitions and zones stand. -/
def Obligations.CurveEditsApply : Prop :=
  ∀ (s : Machine.State) (c : Fin 64),
    let blocks : List (Fin 96) := match s.clb.slots[c].body with | none => [] | some old => old.blocks
    (∀ (b : Building) (body : Body), s.clb.building = some b → b.body = some body →
      let r := s.applyEdit (.install c)
      r.state = { s with clb := r.state.clb, ptb := r.state.ptb }
      ∧ r.state.clb.slots[c] = { s.clb.slots[c] with body := some body }
      ∧ (∀ c' : Fin 64, c' ≠ c → r.state.clb.slots[c'] = s.clb.slots[c'])
      ∧ r.state.clb.free = s.clb.free ++ blocks ∧ r.state.clb.building = none
      ∧ (∀ (i : Fin 256) (d : PointDef), s.ptb.points[i].definition = some d → d.curve = some c →
        r.state.ptb.points[i] = { s.ptb.points[i] with history := [] })
      ∧ (∀ i : Fin 256, (∀ d, s.ptb.points[i].definition = some d → d.curve ≠ some c) →
        r.state.ptb.points[i] = s.ptb.points[i])
      ∧ r.events = [⟨.curveInstalled, 255, 0, BitVec.ofNat 16 c.val, s.pse.passNumber⟩]
      ∧ r.words = [Word.ofNat body.blocks.length, Word.ofNat (s.clb.free.length + blocks.length),
          Word.ofBool body.invertible, s.pse.passNumber])
    ∧ (let r := s.applyEdit (.delete c)
      r.state = { s with clb := r.state.clb }
      ∧ r.state.clb.slots[c] = { s.clb.slots[c] with body := none }
      ∧ (∀ c' : Fin 64, c' ≠ c → r.state.clb.slots[c'] = s.clb.slots[c'])
      ∧ r.state.clb.free = s.clb.free ++ blocks ∧ r.state.clb.building = s.clb.building
      ∧ r.events = [] ∧ r.words = [Word.ofNat (s.clb.free.length + blocks.length), Word.ofNat blocks.length])

/-- SET_POINT replaces the record whole and restarts the point's working state and zone; CLEAR_POINT makes it UNUSED. The old
binding's count gives one and the new binding's takes one; bodies, blocks and the other points stand; no event. -/
def Obligations.PointEditsApply : Prop :=
  ∀ (s : Machine.State) (i : Fin 256),
    let old := s.ptb.points[i].definition
    let one (d : Option PointDef) (c : Fin 64) (dir : Direction) : Nat :=
      match d with
      | none => 0
      | some d => if d.curve = some c ∧ d.direction = dir then 1 else 0
    let recounts (r : Applied) (d : Option PointDef) : Prop :=
      r.state.clb.free = s.clb.free ∧ r.state.clb.building = s.clb.building
      ∧ ∀ c : Fin 64,
        r.state.clb.slots[c].body = s.clb.slots[c].body
        ∧ r.state.clb.slots[c].forwardCount
            = s.clb.slots[c].forwardCount - one old c .forward + one d c .forward
        ∧ r.state.clb.slots[c].inverseCount
            = s.clb.slots[c].inverseCount - one old c .inverse + one d c .inverse
    let others (r : Applied) : Prop :=
      r.state = { s with clb := r.state.clb, ptb := r.state.ptb, zsv := r.state.zsv }
      ∧ r.state.zsv.sets = s.zsv.sets
      ∧ (∀ j : Fin 256, j ≠ i →
        r.state.ptb.points[j] = s.ptb.points[j] ∧ r.state.zsv.zones[j] = s.zsv.zones[j])
      ∧ r.events = [] ∧ r.words = [if old = none then 0 else 1, s.pse.passNumber]
    (∀ d, let r := s.applyEdit (.setPoint i d)
      recounts r (some d) ∧ others r ∧ r.state.ptb.points[i] = ⟨some d, [], 0, .notYet⟩
      ∧ r.state.zsv.zones[i] = ⟨if d.zoneSet = none then .none else .unknown, false⟩)
    ∧ (let r := s.applyEdit (.clearPoint i)
      recounts r none ∧ others r ∧ r.state.ptb.points[i] = ⟨none, [], 0, .notYet⟩
      ∧ r.state.zsv.zones[i] = ⟨.none, false⟩)

/-- SET_ZONES writes the set whole, sets its written flag, and adjusts each ACTIVE point that names it; ACK_ZONE acknowledges the
points it names. A HELD point goes to INSIDE with a LEAVE event, handed in ascending point order with the point's last output
value and PSE's pass number; the result words count. Every other point and every other table stand. -/
def Obligations.ZoneEditsApply : Prop :=
  ∀ s : Machine.State,
    let names (i : Fin 256) (z : Fin 64) : Bool := s.ptb.points[i].definition.any (fun d => d.zoneSet == some z)
    let leaves (picked : Fin 256 → Bool) : List Event := (List.finRange 256).filterMap (fun i =>
      let event (k : EventKind) : Event :=
        ⟨k, BitVec.ofNat 8 i.val, s.ptb.points[i].lastOutput, 2, s.pse.passNumber⟩
      if picked i = true ∧ s.zsv.zones[i].state = .highHeld then some (event .highLeave)
      else if picked i = true ∧ s.zsv.zones[i].state = .lowHeld then some (event .lowLeave)
      else none)
    let size (picked : Fin 256 → Bool) : Nat := ((List.finRange 256).filter picked).length
    (∀ (z : Fin 64) (v : ZoneSet),
      let r := s.applyEdit (.setZones z v)
      let adjusted (p : PointZone) : PointZone :=
        match p.state with
        | .highPending _ => { p with state := .inside }
        | .lowPending _ => { p with state := .inside }
        | .highHeld => if v.latch then p else { p with state := .inside }
        | .lowHeld => if v.latch then p else { p with state := .inside }
        | _ => p
      r.state = { s with zsv := r.state.zsv }
      ∧ r.state.zsv.sets[z] = { v with written := true }
      ∧ (∀ z' : Fin 64, z' ≠ z → r.state.zsv.sets[z'] = s.zsv.sets[z'])
      ∧ (∀ i : Fin 256, r.state.zsv.zones[i] = if names i z then adjusted s.zsv.zones[i] else s.zsv.zones[i])
      ∧ r.events = (if v.latch then [] else leaves (fun i => names i z))
      ∧ r.words = [Word.ofBool s.zsv.sets[z].written, Word.ofNat (size (fun i => names i z)),
          Word.ofNat (size (fun i => names i z && (adjusted s.zsv.zones[i]).state != s.zsv.zones[i].state)),
          s.pse.passNumber])
    ∧ (∀ t : AckTarget,
      let r := s.applyEdit (.ackZone t)
      let picked (i : Fin 256) : Bool :=
        match t with
        | .point j => i == j && s.ptb.points[i].definition.any (fun d => d.zoneSet.isSome)
        | .zoneSet z => names i z
      let acked (p : PointZone) : PointZone :=
        match p.state with
        | .highHeld => { p with state := .inside }
        | .lowHeld => { p with state := .inside }
        | .high => { p with acked := true }
        | .low => { p with acked := true }
        | _ => p
      r.state = { s with zsv := r.state.zsv } ∧ r.state.zsv.sets = s.zsv.sets
      ∧ (∀ i : Fin 256, r.state.zsv.zones[i] = if picked i then acked s.zsv.zones[i] else s.zsv.zones[i])
      ∧ r.events = leaves picked
      ∧ r.words = [Word.ofNat (size (fun i => picked i && acked s.zsv.zones[i] != s.zsv.zones[i])),
          Word.ofNat (size picked), s.pse.passNumber])

/-! ### Evaluations -/

/-- A quotient is rounded to nearest, halves away from zero: whole part and remainder of the magnitudes, one more when twice the
remainder reaches the divisor, negative when exactly one of the two is negative. -/
def Obligations.QuotientsRoundHalvesAwayFromZero : Prop :=
  (∀ p q : Int, q ≠ 0 → ∃ whole rest magnitude : Nat,
    p.natAbs = q.natAbs * whole + rest ∧ rest < q.natAbs
    ∧ magnitude = (if q.natAbs ≤ 2 * rest then whole + 1 else whole)
    ∧ (roundedQuotient p q).natAbs = magnitude
    ∧ (roundedQuotient p q < 0 ↔ ((p < 0 ∧ 0 < q) ∨ (0 < p ∧ q < 0)) ∧ magnitude ≠ 0))
  ∧ (-1000 + roundedQuotient 125 2 = -937)

/-- LINEAR2 in both directions, RATIO in both directions and ROOT forward give the value the formula gives, exactly computed, its
quotient rounded, its final result saturated. -/
def Obligations.LinearRatioAndRootEvaluate : Prop :=
  let result (v : Int) : CurveResult :=
    if 2147483647 < v then .value 0x7FFFFFFF .clamped
    else if v < -2147483648 then .value 0x80000000 .clamped
    else .value (BitVec.ofInt 32 v) .good
  let line (a0 a1 b0 b1 : Int) (v : Int) : CurveResult :=
    result (b0 + roundedQuotient ((v - a0) * (b1 - b0)) (a1 - a0))
  (∀ (xLo xHi yLo yHi : Word) (clamp : Bool) (input : Word) (dir : Direction), xLo ≠ xHi →
    (dir = .inverse → yLo ≠ yHi) →
    let (aLo, aHi, bLo, bHi) := match dir with
      | .forward => (xLo, xHi, yLo, yHi)
      | .inverse => (yLo, yHi, xLo, xHi)
    let e := (CurveShape.linear2 xLo xHi yLo yHi clamp).eval dir input
    ((clamp = false ∨ (min aLo.toInt aHi.toInt ≤ input.toInt ∧ input.toInt ≤ max aLo.toInt aHi.toInt)) →
      e = line aLo.toInt aHi.toInt bLo.toInt bHi.toInt input.toInt)
    ∧ (clamp = true → input.toInt < min aLo.toInt aHi.toInt →
      e = .value (if aLo.toInt < aHi.toInt then bLo else bHi) .clamped)
    ∧ (clamp = true → max aLo.toInt aHi.toInt < input.toInt →
      e = .value (if aLo.toInt < aHi.toInt then bHi else bLo) .clamped)
    ∧ (input = aLo → e = .value bLo .good) ∧ (input = aHi → e = .value bHi .good))
  ∧ (∀ a b c input : Word,
    (CurveShape.ratio a b c).eval .forward input
        = result (c.toInt + roundedQuotient (input.toInt * a.toNat) b.toNat)
    ∧ (CurveShape.ratio a b c).eval .inverse input
        = result (roundedQuotient ((input.toInt - c.toInt) * b.toNat) a.toNat))
  ∧ (∀ x0 c m y0 input : Word,
    let d := input.toInt - x0.toInt
    let e := (CurveShape.root x0 c m y0).eval .forward input
    (d < c.toNat → e = .value y0 .cutoff)
    ∧ (∀ root : Nat, c.toNat ≤ d → (root : Int) * root ≤ d * m.toNat → d * m.toNat < ((root : Int) + 1) * (root + 1) →
      e = result (y0.toInt + root)))

/-- A SEGMENTED body pins at its ends, GOOD on them and CLAMPED beyond, and inside interpolates on the segment the input lies on,
always GOOD: forward by x, and for an invertible body inverse by y, ascending or descending. -/
def Obligations.SegmentedEvaluates : Prop :=
  ∀ (first : Pair) (rest : List Pair) (input : Word), rest ≠ [] →
    let pairs := first :: rest
    let last := rest.getLast?.getD first
    let shape := CurveShape.segmented first rest
    let v := input.toInt
    let quality (inside : Prop) [Decidable inside] : Quality := if inside then .good else .clamped
    let line (a0 a1 b0 b1 : Word) : CurveResult := .value (BitVec.ofInt 32
      (b0.toInt + roundedQuotient ((v - a0.toInt) * (b1.toInt - b0.toInt)) (a1.toInt - a0.toInt))) .good
    ((∀ (i : Nat) (h : i + 1 < pairs.length), pairs[i].x.toInt < pairs[i + 1].x.toInt) →
      (v ≤ first.x.toInt → shape.eval .forward input = .value first.y (quality (v = first.x.toInt)))
      ∧ (last.x.toInt ≤ v → shape.eval .forward input = .value last.y (quality (v = last.x.toInt)))
      ∧ (∀ (i : Nat) (h : i + 1 < pairs.length), pairs[i].x.toInt ≤ v → v < pairs[i + 1].x.toInt →
        shape.eval .forward input = line pairs[i].x pairs[i + 1].x pairs[i].y pairs[i + 1].y))
    ∧ ((∀ (i : Nat) (h : i + 1 < pairs.length), pairs[i].y.toInt < pairs[i + 1].y.toInt) →
      (v ≤ first.y.toInt → shape.eval .inverse input = .value first.x (quality (v = first.y.toInt)))
      ∧ (last.y.toInt ≤ v → shape.eval .inverse input = .value last.x (quality (v = last.y.toInt)))
      ∧ (∀ (i : Nat) (h : i + 1 < pairs.length), pairs[i].y.toInt ≤ v → v < pairs[i + 1].y.toInt →
        shape.eval .inverse input = line pairs[i].y pairs[i + 1].y pairs[i].x pairs[i + 1].x))
    ∧ ((∀ (i : Nat) (h : i + 1 < pairs.length), pairs[i + 1].y.toInt < pairs[i].y.toInt) →
      (first.y.toInt ≤ v → shape.eval .inverse input = .value first.x (quality (v = first.y.toInt)))
      ∧ (v ≤ last.y.toInt → shape.eval .inverse input = .value last.x (quality (v = last.y.toInt)))
      ∧ (∀ (i : Nat) (h : i + 1 < pairs.length), v ≤ pairs[i].y.toInt → pairs[i + 1].y.toInt < v →
        shape.eval .inverse input = line pairs[i].y pairs[i + 1].y pairs[i].x pairs[i + 1].x))

/-- A reading inside its span is the source value, GOOD, and outside BAD_RAW. An aggregate's function over its usable members: their
mean, truncated; their sum, saturated with CLAMPED; the least; the greatest; and with none NO_SOURCE. The curve step is the identity
without a curve, NO_CURVE for an EMPTY slot, and else the live body's result with the worse of the two qualities; an unusable
source passes it by. A usable conversion joins the history, the oldest value leaving at window length, and the output is the
history's mean, truncated; an unusable one leaves history and last output. The usability step raises POINT_BAD or POINT_GOOD at a
change alone. The qualities' codes are 0 to 6. -/
def Obligations.ReadingsHistoriesAndUsability : Prop :=
  ([Quality.unused, .good, .clamped, .cutoff, .badRaw, .noCurve, .noSource].map Quality.code = [0, 1, 2, 3, 4, 5, 6])
  ∧ (∀ (f : RawFormat) (lo hi w : Word),
    let reading : Int := match f with
      | .s16 => (w.extractLsb' 0 16).toInt
      | .u16 => w.toNat % 65536
      | .s32 => w.toInt
    (lo.toInt ≤ reading → reading ≤ hi.toInt → ∃ v : Word, rawSource f lo hi w = .value v .good ∧ v.toInt = reading)
    ∧ (reading < lo.toInt ∨ hi.toInt < reading → rawSource f lo hi w = .unusable .badRaw))
  ∧ (RawFormat.s16.reading 0x0001FFFF = -1 ∧ RawFormat.u16.reading 0x0001FFFF = 65535)
  ∧ (∀ fn, aggregateSource fn [] = .unusable .noSource)
  ∧ (∀ words : List Word, words ≠ [] →
    let values := words.map BitVec.toInt
    let total := values.sum
    (∃ v : Word, aggregateSource .mean values = .value v .good ∧ v.toInt = total.tdiv values.length)
    ∧ (-2147483648 ≤ total → total ≤ 2147483647 →
      ∃ v : Word, aggregateSource .sum values = .value v .good ∧ v.toInt = total)
    ∧ (2147483647 < total → aggregateSource .sum values = .value 0x7FFFFFFF .clamped)
    ∧ (total < -2147483648 → aggregateSource .sum values = .value 0x80000000 .clamped)
    ∧ (∃ v ∈ words, aggregateSource .min values = .value v .good ∧ ∀ x ∈ words, v.toInt ≤ x.toInt)
    ∧ (∃ v ∈ words, aggregateSource .max values = .value v .good ∧ ∀ x ∈ words, x.toInt ≤ v.toInt))
  ∧ (∀ (clb : Clb) (dir : Direction) (input : Word),
    clb.evaluate none dir input = .value input .good
    ∧ ∀ c : Fin 64,
      (clb.slots[c].body = none → clb.evaluate (some c) dir input = .noCurve)
      ∧ ∀ body, clb.slots[c].body = some body →
        clb.evaluate (some c) dir input = body.shape.eval dir input
        ∧ ∃ v q, body.shape.eval dir input = .value v q ∧ (q = .good ∨ q = .cutoff ∨ q = .clamped))
  ∧ (∀ (clb : Clb) (d : PointDef) (v : Word) (q : Quality),
    curveStep clb d (.unusable q) = .unusable q
    ∧ (clb.evaluate d.curve d.direction v = .noCurve → curveStep clb d (.value v q) = .unusable .noCurve)
    ∧ ∀ v' q', clb.evaluate d.curve d.direction v = .value v' q' →
      (q = .good → curveStep clb d (.value v q) = .usable v' q')
      ∧ (q = .clamped → curveStep clb d (.value v q) = .usable v' .clamped))
  ∧ (∀ (p : Point) (n : Nat) (x : Word) (q : Quality), 1 ≤ n → p.history.length ≤ n →
    let r := p.update n (.usable x q)
    r.point.definition = p.definition
    ∧ r.point.history = (if p.history.length = n then p.history.drop 1 else p.history) ++ [x]
    ∧ r.point.lastOutput.toInt
        = ((r.point.history.map BitVec.toInt).sum).tdiv r.point.history.length
    ∧ r.quality = q ∧ r.point.usability = .usable
    ∧ r.event = (if p.usability = .unusable then some .pointGood else none))
  ∧ (∀ (p : Point) (n : Nat) (q : Quality),
    let r := p.update n (.unusable q)
    r.point = { p with usability := .unusable } ∧ r.quality = q
    ∧ r.event = (if p.usability = .unusable then none else some .pointBad))
  ∧ (∀ (i : Fin 256) (value passNumber : Word) (q : Quality) (k : EventKind),
    qualityEvent i value passNumber q k
      = ⟨k, BitVec.ofNat 8 i.val, value, BitVec.ofNat 16 q.code, passNumber⟩)

/-- The moves of a supervised point, by its state, the class of a usable value, the set's dwell, latch and the acknowledged mark,
and on an unusable value; each with the events it raises, in order. The zone states' codes are 0 to 8, whatever the pending count;
the usable qualities are GOOD, CLAMPED and CUTOFF. -/
def Obligations.ZonesMoveByTheirTable : Prop :=
  (∀ k, [ZoneState.none, .unknown, .inside, .highPending k, .high, .highHeld, .lowPending k, .low, .lowHeld].map ZoneState.code
    = [0, 1, 2, 3, 4, 5, 6, 7, 8])
  ∧ ([Quality.unused, .good, .clamped, .cutoff, .badRaw, .noCurve, .noSource].map Quality.isUsable
    = [false, true, true, true, false, false, false])
  ∧ ∀ (zsv : Zsv) (z : Fin 64) (p : PointZone) (value : Word) (q : Quality),
    let set := zsv.sets[z]
    let v := value.toInt
    let moved := zsv.evaluate (some z) p value q
    let above : Prop := set.upper.toInt < v
    let below : Prop := v < set.lower.toInt
    let fromHigh : Prop := v ≤ set.upper.toInt - set.hysteresis.toNat
    let fromLow : Prop := set.lower.toInt + set.hysteresis.toNat ≤ v
    let inside (m : ZoneMove) (mark : Bool) (before : List EventKind) : Prop :=
      (above → set.dwell = 1 → m = ⟨⟨.high, mark⟩, before ++ [.highEnter]⟩)
      ∧ (above → set.dwell ≠ 1 → m = ⟨⟨.highPending 1, mark⟩, before⟩)
      ∧ (¬above → below → set.dwell = 1 → m = ⟨⟨.low, mark⟩, before ++ [.lowEnter]⟩)
      ∧ (¬above → below → set.dwell ≠ 1 → m = ⟨⟨.lowPending 1, mark⟩, before⟩)
      ∧ (¬above → ¬below → m = ⟨⟨.inside, mark⟩, before⟩)
    zsv.evaluate none p value q = ⟨p, []⟩
    ∧ (q.isUsable = true →
      (p.state = .unknown ∨ p.state = .inside → inside moved p.acked [])
      ∧ (∀ k, p.state = .highPending k →
        (above → k + 1 = set.dwell → moved = ⟨⟨.high, p.acked⟩, [.highEnter]⟩)
        ∧ (above → k + 1 ≠ set.dwell → moved = ⟨⟨.highPending (k + 1), p.acked⟩, []⟩)
        ∧ (¬above → inside moved p.acked []))
      ∧ (∀ k, p.state = .lowPending k →
        (below → k + 1 = set.dwell → moved = ⟨⟨.low, p.acked⟩, [.lowEnter]⟩)
        ∧ (below → k + 1 ≠ set.dwell → moved = ⟨⟨.lowPending (k + 1), p.acked⟩, []⟩)
        ∧ (¬below → inside moved p.acked []))
      ∧ (p.state = .high →
        (¬fromHigh → moved = ⟨p, []⟩)
        ∧ (fromHigh → set.latch = true → p.acked = false → moved = ⟨⟨.highHeld, false⟩, []⟩)
        ∧ (fromHigh → set.latch = false ∨ p.acked = true → inside moved false [.highLeave]))
      ∧ (p.state = .low →
        (¬fromLow → moved = ⟨p, []⟩)
        ∧ (fromLow → set.latch = true → p.acked = false → moved = ⟨⟨.lowHeld, false⟩, []⟩)
        ∧ (fromLow → set.latch = false ∨ p.acked = true → inside moved false [.lowLeave]))
      ∧ (p.state = .highHeld →
        (above → moved = ⟨⟨.high, false⟩, []⟩) ∧ (¬above → moved = ⟨p, []⟩))
      ∧ (p.state = .lowHeld →
        (below → moved = ⟨⟨.low, false⟩, []⟩) ∧ (¬below → moved = ⟨p, []⟩)))
    ∧ (q.isUsable = false →
      ((∃ k, p.state = .highPending k ∨ p.state = .lowPending k) → moved = ⟨⟨.inside, p.acked⟩, []⟩)
      ∧ ((∀ k, p.state ≠ .highPending k ∧ p.state ≠ .lowPending k) → moved = ⟨p, []⟩))

/-- A ticket is compared with the expected one modulo 65,536: 0 behind is the candidate, 1 to 32,768 behind is stale, more is
ahead. -/
def Obligations.TicketsAreClassified : Prop :=
  ∀ e t : BitVec 16,
    let d := (e.toNat + 65536 - t.toNat) % 65536
    (d = 0 → ticketClass e t = .candidate) ∧ (1 ≤ d → d ≤ 32768 → ticketClass e t = .stale)
    ∧ (32769 ≤ d → ticketClass e t = .ahead)

/-! ### Laws every step keeps -/

/-- Every step keeps the window's canonical form, WBASE a multiple of 4, and a trigger pending only while a pass is in flight. Every
step keeps the law that no pass takes a number after the greatest; and with it publications carry increasing numbers: once every
number still to be published is above `n`, it stays so until the pass number returns to 0 with no bank published, and a pass that
leaves its publication puts every later number above its own. -/
def Obligations.WindowWbaseAndTriggerLawsAreKept : Prop :=
  ∀ s t : Machine.State, step s = .next t →
    (Memory.wf s.window = true → Memory.wf t.window = true)
    ∧ (s.eng.wbaseLaw → t.eng.wbaseLaw)
    ∧ (s.pse.pendingLaw → t.pse.pendingLaw)
    ∧ (s.numberLaw → t.numberLaw
      ∧ (∀ n, s.pse.numbersAbove n → t.pse.numbersAbove n ∨ (t.pse.passNumber = 0 ∧ t.pse.bankOrder = []))
      ∧ (s.pse.pass = some .publicationWrite → t.pse.pass ≠ some .publicationWrite →
        t.pse.numbersAbove s.pse.passNumber ∨ (t.pse.passNumber = 0 ∧ t.pse.bankOrder = [])))

/-- Every step keeps the pool whole: each of the 96 blocks is free, or held by exactly one body; and each slot's counts equal to
the numbers of ACTIVE points bound to it. -/
def Obligations.PoolAndCountLawsAreKept : Prop :=
  ∀ s t : Machine.State, step s = .next t →
    (s.clb.poolLaw → t.clb.poolLaw) ∧ (s.countLaw → t.countLaw)

/-- Every step keeps every body of a slot with an inverse count invertible, live and under construction, together with the guard
that a waiting installation and a waiting SET_POINT need. -/
def Obligations.InvertibleLawIsKept : Prop :=
  ∀ s t : Machine.State, step s = .next t →
    s.clb.liveInvertible ∧ s.clb.buildingInvertible ∧ s.invertibleGuard →
    t.clb.liveInvertible ∧ t.clb.buildingInvertible ∧ t.invertibleGuard

/-- Every step keeps each point's definition legal, an input word index within 0 to 1,023, an aggregate's members below it, and a
history within its window length; and the input word count within 1,024. -/
def Obligations.PointLawIsKept : Prop :=
  ∀ s t : Machine.State, step s = .next t → s.pointLaw → t.pointLaw

/-- Every step keeps each point's zone legal for its zone set: NONE without one; a written set, another state and a pending count
below the dwell with one. -/
def Obligations.ZoneLawIsKept : Prop :=
  ∀ s t : Machine.State, step s = .next t → s.zoneLaw → t.zoneLaw

/-- Every step keeps the records written and not acknowledged within the strip's capacity, and the number of the last record
written moves by one or returns to 0. -/
def Obligations.RoomLawIsKept : Prop :=
  ∀ s t : Machine.State, step s = .next t → s.roomLaw →
    t.roomLaw ∧ (t.evr.w = s.evr.w ∨ t.evr.w = s.evr.w + 1 ∨ t.evr.w = 0)

/-- Every step keeps the law of the engine state: who may have work and accesses in each state. -/
def Obligations.EngineLawIsKept : Prop :=
  ∀ s t : Machine.State, step s = .next t → s.engineLaw → t.engineLaw

/-- Every step keeps every access of the part inside the accepted window; and in every engine state but DETACHED and ATTACHING
this gives the premises the statements above ask of the waiting accesses and the areas. -/
def Obligations.PlacementLawIsKept : Prop :=
  (∀ s t : Machine.State, step s = .next t → s.engineLaw → s.placementLaw → t.placementLaw)
  ∧ (∀ s : Machine.State, s.placementLaw →
    s.waitsAdmitted = true
    ∧ (s.eng.engine ≠ .detached → s.eng.engine ≠ .attaching → s.placed = true))

/-- Every law holds after power-on. -/
def Obligations.LawsHoldAtReset : Prop :=
  let s := State.reset
  Memory.wf s.window = true ∧ s.eng.wbaseLaw ∧ s.pse.pendingLaw ∧ s.clb.poolLaw ∧ s.countLaw
  ∧ s.clb.liveInvertible ∧ s.clb.buildingInvertible ∧ s.invertibleGuard ∧ s.pointLaw ∧ s.zoneLaw ∧ s.roomLaw
  ∧ s.engineLaw ∧ s.placementLaw ∧ s.numberLaw ∧ s.publicationGuard ∧ s.publicationLaw

end
end

