-- ==== Sys2Proof/Laws/Memory.lean ====
section
/-! SUPPORT. The window memory: every operation keeps the canonical form, and a read gives what was written. -/
namespace Sys2Proof.Machine

theorem Memory.wf_cons_cons (a : Nat) (b : Byte) (c : Nat) (d : Byte) (m : Memory) :
    Memory.wf ((a, b) :: (c, d) :: m) = (decide (a < c) && Memory.wf ((c, d) :: m)) := rfl

/-- A canonical list stays canonical without its first entry. -/
theorem Memory.wf_tail {p : Host.Cell} {m : Memory} (h : Memory.wf (p :: m) = true) : Memory.wf m = true := by
  cases m with
  | nil => rfl
  | cons q m => rw [Memory.wf_cons_cons] at h; simp at h; exact h.2

/-- A cell goes before a canonical list that a byte is written into beyond it. -/
theorem Memory.wf_cons_writeByte {c : Nat} {d : Byte} {m : Memory} {a : Nat} {b : Byte} (hca : c < a)
    (h : Memory.wf ((c, d) :: m) = true) (hw : Memory.wf (Memory.writeByte m a b) = true) :
    Memory.wf ((c, d) :: Memory.writeByte m a b) = true := by
  cases m with
  | nil => simp [Memory.writeByte, Memory.wf, hca]
  | cons q m =>
    obtain ⟨e, f⟩ := q
    rw [Memory.wf_cons_cons] at h
    simp only [Bool.and_eq_true, decide_eq_true_eq] at h
    unfold Memory.writeByte at hw ⊢
    by_cases h1 : a < e
    · rw [if_pos h1] at hw ⊢
      rw [Memory.wf_cons_cons]; simp [hca, hw]
    · rw [if_neg h1] at hw ⊢
      by_cases h2 : a = e
      · rw [if_pos h2] at hw ⊢
        rw [Memory.wf_cons_cons]; simp [hca, hw]
      · rw [if_neg h2] at hw ⊢
        rw [Memory.wf_cons_cons]; simp [h.1, hw]

/-- Writing a byte keeps the canonical form. -/
theorem Memory.wf_writeByte (m : Memory) (a : Nat) (b : Byte) (h : Memory.wf m = true) :
    Memory.wf (Memory.writeByte m a b) = true := by
  induction m with
  | nil => rfl
  | cons p m ih =>
    obtain ⟨c, d⟩ := p
    unfold Memory.writeByte
    split <;> rename_i h1
    · rw [Memory.wf_cons_cons]; simp [h1, h]
    · split <;> rename_i h2
      · subst h2
        cases m with
        | nil => rfl
        | cons q m => obtain ⟨e, f⟩ := q; rw [Memory.wf_cons_cons] at h ⊢; exact h
      · exact Memory.wf_cons_writeByte (by omega) h (ih (Memory.wf_tail h))

/-- Writing a word keeps the canonical form. -/
theorem Memory.wf_writeWord (m : Memory) (a : Nat) (w : Word) (h : Memory.wf m = true) :
    Memory.wf (Memory.writeWord m a w) = true := by
  unfold Memory.writeWord
  exact Memory.wf_writeByte _ _ _ (Memory.wf_writeByte _ _ _ (Memory.wf_writeByte _ _ _
    (Memory.wf_writeByte _ _ _ h)))

/-- A byte reads as it was written. -/
theorem Memory.readByte_writeByte_same (m : Memory) (a : Nat) (b : Byte) :
    Memory.readByte (Memory.writeByte m a b) a = some b := by
  induction m with
  | nil => simp [Memory.writeByte, Memory.readByte]
  | cons p m ih =>
    obtain ⟨c, d⟩ := p
    unfold Memory.writeByte
    split <;> rename_i h1
    · simp [Memory.readByte]
    · split <;> rename_i h2
      · simp [Memory.readByte]
      · simp [Memory.readByte, h2, ih]

/-- A byte elsewhere reads as before. -/
theorem Memory.readByte_writeByte_other (m : Memory) (a x : Nat) (b : Byte) (h : x ≠ a) :
    Memory.readByte (Memory.writeByte m a b) x = Memory.readByte m x := by
  induction m with
  | nil => simp [Memory.writeByte, Memory.readByte, h]
  | cons p m ih =>
    obtain ⟨c, d⟩ := p
    unfold Memory.writeByte
    split <;> rename_i h1
    · simp [Memory.readByte, h]
    · split <;> rename_i h2
      · subst h2; simp [Memory.readByte, h]
      · simp only [Memory.readByte, ih]

/-- The four bytes of a word laid high to low are the word. -/
theorem byteOf_append (w : Word) : byteOf w 3 ++ byteOf w 2 ++ byteOf w 1 ++ byteOf w 0 = w := by
  unfold byteOf
  ext i hi
  simp only [BitVec.getElem_append, BitVec.getElem_extractLsb']
  split
  · simp [BitVec.getLsbD_eq_getElem hi]
  · split
    · rw [← BitVec.getLsbD_eq_getElem hi]; congr 1; omega
    · split
      · rw [← BitVec.getLsbD_eq_getElem hi]; congr 1; omega
      · rw [← BitVec.getLsbD_eq_getElem hi]; congr 1; omega

/-- A word reads as it was written. -/
theorem Memory.readWord_writeWord_same (m : Memory) (a : Nat) (w : Word) :
    Memory.readWord (Memory.writeWord m a w) a = some w := by
  have h0 : Memory.readByte (Memory.writeWord m a w) a = some (byteOf w 0) := by
    unfold Memory.writeWord
    rw [Memory.readByte_writeByte_other _ _ _ _ (by omega), Memory.readByte_writeByte_other _ _ _ _ (by omega),
      Memory.readByte_writeByte_other _ _ _ _ (by omega), Memory.readByte_writeByte_same]
  have h1 : Memory.readByte (Memory.writeWord m a w) (a + 1) = some (byteOf w 1) := by
    unfold Memory.writeWord
    rw [Memory.readByte_writeByte_other _ _ _ _ (by omega), Memory.readByte_writeByte_other _ _ _ _ (by omega),
      Memory.readByte_writeByte_same]
  have h2 : Memory.readByte (Memory.writeWord m a w) (a + 2) = some (byteOf w 2) := by
    unfold Memory.writeWord
    rw [Memory.readByte_writeByte_other _ _ _ _ (by omega), Memory.readByte_writeByte_same]
  have h3 : Memory.readByte (Memory.writeWord m a w) (a + 3) = some (byteOf w 3) := by
    unfold Memory.writeWord
    rw [Memory.readByte_writeByte_same]
  unfold Memory.readWord
  rw [h0, h1, h2, h3]
  exact congrArg some (byteOf_append w)

/-- A byte outside the word's four reads as before. -/
theorem Memory.readByte_writeWord_other (m : Memory) (a x : Nat) (w : Word) (h : x < a ∨ a + 4 ≤ x) :
    Memory.readByte (Memory.writeWord m a w) x = Memory.readByte m x := by
  unfold Memory.writeWord
  rw [Memory.readByte_writeByte_other _ _ _ _ (by omega), Memory.readByte_writeByte_other _ _ _ _ (by omega),
    Memory.readByte_writeByte_other _ _ _ _ (by omega), Memory.readByte_writeByte_other _ _ _ _ (by omega)]

/-- A word apart from the one written reads as before. -/
theorem Memory.readWord_writeWord_other (m : Memory) (a x : Nat) (w : Word) (h : x + 4 ≤ a ∨ a + 4 ≤ x) :
    Memory.readWord (Memory.writeWord m a w) x = Memory.readWord m x := by
  unfold Memory.readWord
  rw [Memory.readByte_writeWord_other _ _ _ _ (by omega), Memory.readByte_writeWord_other _ _ _ _ (by omega),
    Memory.readByte_writeWord_other _ _ _ _ (by omega), Memory.readByte_writeWord_other _ _ _ _ (by omega)]

/-- A word reads as before when its four bytes do. -/
theorem Memory.readWord_congr {m n : Memory} {x : Nat} (h : ∀ k < 4, Memory.readByte m (x + k) = Memory.readByte n (x + k)) :
    Memory.readWord m x = Memory.readWord n x := by
  unfold Memory.readWord
  rw [show Memory.readByte m x = Memory.readByte n x from h 0 (by omega), h 1 (by omega), h 2 (by omega),
    h 3 (by omega)]

end Sys2Proof.Machine
end

