-- ==== Sys2Proof/Laws/State.lean ====
section
/-! SUPPORT. The named updates of the state, field by field: what each leaves as it was, and the one block it changes. A
conjunction tagged simp rewrites by each of its parts. -/
namespace Sys2Proof.Machine

/-- Issuing an access changes BIP alone. -/
@[simp] theorem State.issue_frame (s : State) (c : Client) (o : Nat) (op : AccessOp) :
    (s.issue c o op).eng = s.eng ∧ (s.issue c o op).rqh = s.rqh ∧ (s.issue c o op).clb = s.clb
    ∧ (s.issue c o op).ptb = s.ptb ∧ (s.issue c o op).zsv = s.zsv ∧ (s.issue c o op).pse = s.pse
    ∧ (s.issue c o op).evr = s.evr ∧ (s.issue c o op).window = s.window
    ∧ (s.issue c o op).freeIndex = s.freeIndex ∧ (s.issue c o op).pending = s.pending :=
  ⟨rfl, rfl, rfl, rfl, rfl, rfl, rfl, rfl, rfl, rfl⟩

@[simp] theorem State.issue_bip (s : State) (c : Client) (o : Nat) (op : AccessOp) :
    (s.issue c o op).bip = s.bip.setWaiting c (some ⟨.client c, o, op⟩) := rfl

/-- Issuing an attach read changes BIP alone. -/
@[simp] theorem State.issueAttachRead_frame (s : State) (o : Nat) :
    (s.issueAttachRead o).eng = s.eng ∧ (s.issueAttachRead o).rqh = s.rqh ∧ (s.issueAttachRead o).clb = s.clb
    ∧ (s.issueAttachRead o).ptb = s.ptb ∧ (s.issueAttachRead o).zsv = s.zsv ∧ (s.issueAttachRead o).pse = s.pse
    ∧ (s.issueAttachRead o).evr = s.evr ∧ (s.issueAttachRead o).window = s.window
    ∧ (s.issueAttachRead o).freeIndex = s.freeIndex ∧ (s.issueAttachRead o).pending = s.pending
    ∧ (s.issueAttachRead o).bip = { s.bip with waitEng := some ⟨.eng, o, .read⟩ } :=
  ⟨rfl, rfl, rfl, rfl, rfl, rfl, rfl, rfl, rfl, rfl, rfl⟩

/-- Raising a cause changes CAUSE alone. -/
@[simp] theorem State.raise_frame (s : State) (c : Cause) :
    (s.raise c).eng = { s.eng with cause := s.eng.cause ||| c.bit } ∧ (s.raise c).rqh = s.rqh
    ∧ (s.raise c).clb = s.clb ∧ (s.raise c).ptb = s.ptb ∧ (s.raise c).zsv = s.zsv ∧ (s.raise c).pse = s.pse
    ∧ (s.raise c).evr = s.evr ∧ (s.raise c).bip = s.bip ∧ (s.raise c).window = s.window
    ∧ (s.raise c).freeIndex = s.freeIndex ∧ (s.raise c).pending = s.pending :=
  ⟨rfl, rfl, rfl, rfl, rfl, rfl, rfl, rfl, rfl, rfl, rfl⟩

/-- Placing a word changes the window alone. -/
@[simp] theorem State.placeWord_frame (s : State) (o : Nat) (w : Word) :
    (s.placeWord o w).eng = s.eng ∧ (s.placeWord o w).rqh = s.rqh ∧ (s.placeWord o w).clb = s.clb
    ∧ (s.placeWord o w).ptb = s.ptb ∧ (s.placeWord o w).zsv = s.zsv ∧ (s.placeWord o w).pse = s.pse
    ∧ (s.placeWord o w).evr = s.evr ∧ (s.placeWord o w).bip = s.bip
    ∧ (s.placeWord o w).window = Memory.writeWord s.window (s.busAddress o) w
    ∧ (s.placeWord o w).freeIndex = s.freeIndex ∧ (s.placeWord o w).pending = s.pending :=
  ⟨rfl, rfl, rfl, rfl, rfl, rfl, rfl, rfl, rfl, rfl, rfl⟩

/-- The end of the access in flight changes BIP alone. -/
@[simp] theorem State.endInFlight_frame (s : State) :
    s.endInFlight.eng = s.eng ∧ s.endInFlight.rqh = s.rqh ∧ s.endInFlight.clb = s.clb ∧ s.endInFlight.ptb = s.ptb
    ∧ s.endInFlight.zsv = s.zsv ∧ s.endInFlight.pse = s.pse ∧ s.endInFlight.evr = s.evr
    ∧ s.endInFlight.bip = { s.bip with inFlight := none, disregard := false }
    ∧ s.endInFlight.window = s.window ∧ s.endInFlight.freeIndex = s.freeIndex
    ∧ s.endInFlight.pending = s.pending :=
  ⟨rfl, rfl, rfl, rfl, rfl, rfl, rfl, rfl, rfl, rfl, rfl⟩

/-- A grant changes BIP alone. -/
@[simp] theorem State.grant_frame (s : State) (a : Access) :
    (s.grant a).eng = s.eng ∧ (s.grant a).rqh = s.rqh ∧ (s.grant a).clb = s.clb ∧ (s.grant a).ptb = s.ptb
    ∧ (s.grant a).zsv = s.zsv ∧ (s.grant a).pse = s.pse ∧ (s.grant a).evr = s.evr
    ∧ (s.grant a).window = s.window ∧ (s.grant a).freeIndex = s.freeIndex ∧ (s.grant a).pending = s.pending
    ∧ (s.grant a).bip.inFlight = some a ∧ (s.grant a).bip.disregard = false ∧ (s.grant a).bip.base = s.eng.wbase :=
  ⟨rfl, rfl, rfl, rfl, rfl, rfl, rfl, rfl, rfl, rfl, rfl, rfl, rfl⟩

/-- A write that may land changes the window at most, and the count of free values drawn. -/
theorem State.mayLand_eq (s : State) (offset : Nat) (w : Word) :
    s.mayLand offset w = { s with window := s.window, freeIndex := s.freeIndex + 1 }
    ∨ s.mayLand offset w
      = { s with window := Memory.writeWord s.window (s.busAddress offset) w, freeIndex := s.freeIndex + 1 } := by
  unfold State.mayLand
  split
  · exact .inr rfl
  · exact .inl rfl

/-- A failed access changes the window at most, and the count of free values drawn. -/
theorem State.failedAccess_eq (s : State) (a : Access) :
    s.failedAccess a = { s with window := (s.failedAccess a).window, freeIndex := (s.failedAccess a).freeIndex } := by
  unfold State.failedAccess
  cases a.op with
  | read => rfl
  | write w => rcases s.mayLand_eq a.offset w with h | h <;> simp only [h]
  | writeState w => rfl

/-- The same, field by field. -/
@[simp] theorem State.failedAccess_frame (s : State) (a : Access) :
    (s.failedAccess a).eng = s.eng ∧ (s.failedAccess a).rqh = s.rqh ∧ (s.failedAccess a).clb = s.clb
    ∧ (s.failedAccess a).ptb = s.ptb ∧ (s.failedAccess a).zsv = s.zsv ∧ (s.failedAccess a).pse = s.pse
    ∧ (s.failedAccess a).evr = s.evr ∧ (s.failedAccess a).bip = s.bip
    ∧ (s.failedAccess a).pending = s.pending := by
  rw [State.failedAccess_eq]
  simp

/-- A failed read leaves the window, and so does the failed write of a state word (R129); any other failed write leaves the old
word or the new one (R185). -/
theorem State.failedAccess_window (s : State) (a : Access) :
    (s.failedAccess a).window = s.window
    ∨ ∃ w, a.op = .write w ∧ (s.failedAccess a).window = Memory.writeWord s.window (s.busAddress a.offset) w := by
  unfold State.failedAccess
  cases h : a.op with
  | read => exact .inl rfl
  | write w =>
    rcases s.mayLand_eq a.offset w with h | h
    · exact .inl (by simp only [h])
    · exact .inr ⟨w, rfl, by simp only [h]⟩
  | writeState w => exact .inl rfl

/-- A COMPLETE header's state word that fails is not written (R129). -/
theorem State.failedAccess_writeState (s : State) {a : Access} {w : Word} (h : a.op = .writeState w) :
    s.failedAccess a = s := by
  unfold State.failedAccess; rw [h]

/-- An access that RSTN interrupts leaves the window, or the word it writes stands there; both for a write, by a free value. -/
theorem State.interruptedAccess_window (s : State) (a : Access) :
    (s.interruptedAccess a).window = s.window
    ∨ ∃ w, a.op.written = some w
      ∧ (s.interruptedAccess a).window = Memory.writeWord s.window (s.busAddress a.offset) w := by
  unfold State.interruptedAccess
  cases h : a.op.written with
  | none => exact .inl rfl
  | some w =>
    rcases s.mayLand_eq a.offset w with h | h
    · exact .inl (by simp only [h])
    · exact .inr ⟨w, rfl, by simp only [h]⟩

/-- A completed access changes the window at most. -/
@[simp] theorem State.completedAccess_frame (s : State) (a : Access) :
    (s.completedAccess a).eng = s.eng ∧ (s.completedAccess a).rqh = s.rqh ∧ (s.completedAccess a).clb = s.clb
    ∧ (s.completedAccess a).ptb = s.ptb ∧ (s.completedAccess a).zsv = s.zsv ∧ (s.completedAccess a).pse = s.pse
    ∧ (s.completedAccess a).evr = s.evr ∧ (s.completedAccess a).bip = s.bip
    ∧ (s.completedAccess a).freeIndex = s.freeIndex ∧ (s.completedAccess a).pending = s.pending := by
  unfold State.completedAccess
  cases a.op.written <;> simp

/-- A completed write stands in the window; a completed read leaves it. -/
theorem State.completedAccess_window (s : State) (a : Access) :
    (s.completedAccess a).window = match a.op.written with
      | none => s.window
      | some w => Memory.writeWord s.window (s.busAddress a.offset) w := by
  unfold State.completedAccess
  cases a.op.written <;> rfl

/-- An awaited access is the one in flight, of that owner and not disregarded. -/
theorem State.awaited_eq_some {s : State} {o : Owner} {a : Access} :
    s.awaited o = some a ↔ s.bip.inFlight = some a ∧ s.bip.disregard = false ∧ a.owner = o := by
  unfold State.awaited
  cases h : s.bip.inFlight with
  | none => simp
  | some b =>
    dsimp only
    split <;> rename_i hc
    · constructor
      · intro hb; cases hb; exact ⟨rfl, hc⟩
      · intro ⟨hb, _⟩; exact hb
    · constructor
      · intro hb; cases hb
      · intro ⟨hb, h1, h2⟩; cases hb; exact absurd ⟨h1, h2⟩ hc

end Sys2Proof.Machine
end

