-- ==== Sys2Proof/Laws/Recorder.lean ====
section
/-! SUPPORT. The event recorder's operations: each changes EVR and BIP alone, but where its lemma names more; and what
handing an event can do. -/
namespace Sys2Proof.Machine

/-- Issuing a record write. -/
@[simp] theorem State.recordStep_frame (s : State) (c : Configuration) (q : Word) (e : Event) (k : Fin 5)
    (b : Option Event) :
    (s.recordStep c q e k b).eng = s.eng ∧ (s.recordStep c q e k b).rqh = s.rqh
    ∧ (s.recordStep c q e k b).clb = s.clb ∧ (s.recordStep c q e k b).ptb = s.ptb
    ∧ (s.recordStep c q e k b).zsv = s.zsv ∧ (s.recordStep c q e k b).pse = s.pse
    ∧ (s.recordStep c q e k b).window = s.window ∧ (s.recordStep c q e k b).freeIndex = s.freeIndex
    ∧ (s.recordStep c q e k b).pending = s.pending := by
  simp [State.recordStep]

/-- Beginning a record. -/
@[simp] theorem State.beginRecord_frame (s : State) (c : Configuration) (e : Event) (b : Option Event) :
    (s.beginRecord c e b).eng = s.eng ∧ (s.beginRecord c e b).rqh = s.rqh
    ∧ (s.beginRecord c e b).clb = s.clb ∧ (s.beginRecord c e b).ptb = s.ptb
    ∧ (s.beginRecord c e b).zsv = s.zsv ∧ (s.beginRecord c e b).pse = s.pse
    ∧ (s.beginRecord c e b).window = s.window ∧ (s.beginRecord c e b).freeIndex = s.freeIndex
    ∧ (s.beginRecord c e b).pending = s.pending := by
  simp [State.beginRecord]

/-- Beginning a LOST record. -/
@[simp] theorem State.beginLost_frame (s : State) (c : Configuration) (e : Event) :
    (s.beginLost c e).eng = s.eng ∧ (s.beginLost c e).rqh = s.rqh ∧ (s.beginLost c e).clb = s.clb
    ∧ (s.beginLost c e).ptb = s.ptb ∧ (s.beginLost c e).zsv = s.zsv ∧ (s.beginLost c e).pse = s.pse
    ∧ (s.beginLost c e).window = s.window ∧ (s.beginLost c e).freeIndex = s.freeIndex
    ∧ (s.beginLost c e).pending = s.pending := by
  simp [State.beginLost]

/-- Reading the acknowledge word. -/
@[simp] theorem State.readAck_frame (s : State) (l : Bool) (e : Event) :
    (s.readAck l e).eng = s.eng ∧ (s.readAck l e).rqh = s.rqh ∧ (s.readAck l e).clb = s.clb
    ∧ (s.readAck l e).ptb = s.ptb ∧ (s.readAck l e).zsv = s.zsv ∧ (s.readAck l e).pse = s.pse
    ∧ (s.readAck l e).window = s.window ∧ (s.readAck l e).freeIndex = s.freeIndex
    ∧ (s.readAck l e).pending = s.pending := by
  simp [State.readAck]

/-- Judging room for an event. -/
@[simp] theorem State.startOwn_frame (s : State) (c : Configuration) (e : Event) :
    (s.startOwn c e).eng = s.eng ∧ (s.startOwn c e).rqh = s.rqh ∧ (s.startOwn c e).clb = s.clb
    ∧ (s.startOwn c e).ptb = s.ptb ∧ (s.startOwn c e).zsv = s.zsv ∧ (s.startOwn c e).pse = s.pse
    ∧ (s.startOwn c e).window = s.window ∧ (s.startOwn c e).freeIndex = s.freeIndex
    ∧ (s.startOwn c e).pending = s.pending := by
  unfold State.startOwn; split <;> simp

/-- Starting on an event. -/
@[simp] theorem State.startEvent_frame (s : State) (c : Configuration) (e : Event) :
    (s.startEvent c e).eng = s.eng ∧ (s.startEvent c e).rqh = s.rqh ∧ (s.startEvent c e).clb = s.clb
    ∧ (s.startEvent c e).ptb = s.ptb ∧ (s.startEvent c e).zsv = s.zsv ∧ (s.startEvent c e).pse = s.pse
    ∧ (s.startEvent c e).window = s.window ∧ (s.startEvent c e).freeIndex = s.freeIndex
    ∧ (s.startEvent c e).pending = s.pending := by
  unfold State.startEvent; split
  · simp
  · split <;> simp

/-- Taking events from the queue. -/
@[simp] theorem State.takeEvents_frame (c : Configuration) (es : List Event) (s : State) :
    (State.takeEvents c es s).eng = s.eng ∧ (State.takeEvents c es s).rqh = s.rqh
    ∧ (State.takeEvents c es s).clb = s.clb ∧ (State.takeEvents c es s).ptb = s.ptb
    ∧ (State.takeEvents c es s).zsv = s.zsv ∧ (State.takeEvents c es s).pse = s.pse
    ∧ (State.takeEvents c es s).window = s.window ∧ (State.takeEvents c es s).freeIndex = s.freeIndex
    ∧ (State.takeEvents c es s).pending = s.pending := by
  induction es generalizing s with
  | nil => simp [State.takeEvents]
  | cons e es ih =>
    unfold State.takeEvents
    split
    · simpa using ih { s with evr := s.evr.drop }
    · simp

/-- Going on to the next event. -/
@[simp] theorem State.nextEvent_frame (s : State) :
    (s.nextEvent).eng = s.eng ∧ (s.nextEvent).rqh = s.rqh ∧ (s.nextEvent).clb = s.clb
    ∧ (s.nextEvent).ptb = s.ptb ∧ (s.nextEvent).zsv = s.zsv ∧ (s.nextEvent).pse = s.pse
    ∧ (s.nextEvent).window = s.window ∧ (s.nextEvent).freeIndex = s.freeIndex
    ∧ (s.nextEvent).pending = s.pending := by
  unfold State.nextEvent; split <;> simp

/-- Handing an event. -/
@[simp] theorem State.hand_frame (s : State) (e : Event) :
    (s.hand e).eng = s.eng ∧ (s.hand e).rqh = s.rqh ∧ (s.hand e).clb = s.clb ∧ (s.hand e).ptb = s.ptb
    ∧ (s.hand e).zsv = s.zsv ∧ (s.hand e).pse = s.pse ∧ (s.hand e).window = s.window
    ∧ (s.hand e).freeIndex = s.freeIndex ∧ (s.hand e).pending = s.pending := by
  unfold State.hand; split
  · simp
  · split
    · simp
    · dsimp only; split <;> simp

/-- Handing events. -/
@[simp] theorem State.handAll_frame (s : State) (es : List Event) :
    (s.handAll es).eng = s.eng ∧ (s.handAll es).rqh = s.rqh ∧ (s.handAll es).clb = s.clb
    ∧ (s.handAll es).ptb = s.ptb ∧ (s.handAll es).zsv = s.zsv ∧ (s.handAll es).pse = s.pse
    ∧ (s.handAll es).window = s.window ∧ (s.handAll es).freeIndex = s.freeIndex
    ∧ (s.handAll es).pending = s.pending := by
  unfold State.handAll
  induction es generalizing s with
  | nil => simp
  | cons e es ih => simpa using ih (s.hand e)

/-- Handing events of two blocks. -/
@[simp] theorem State.handTogether_frame (s : State) (p : Option Event) (es : List Event) :
    (s.handTogether p es).eng = s.eng ∧ (s.handTogether p es).rqh = s.rqh
    ∧ (s.handTogether p es).clb = s.clb ∧ (s.handTogether p es).ptb = s.ptb
    ∧ (s.handTogether p es).zsv = s.zsv ∧ (s.handTogether p es).pse = s.pse
    ∧ (s.handTogether p es).window = s.window ∧ (s.handTogether p es).pending = s.pending := by
  unfold State.handTogether; split <;> simp

/-- The answer to an acknowledge word read. -/
@[simp] theorem State.ackWordRead_frame (s : State) (c : Configuration) (l : Bool) (e : Event) (v : Word) :
    (s.ackWordRead c l e v).eng = s.eng ∧ (s.ackWordRead c l e v).rqh = s.rqh
    ∧ (s.ackWordRead c l e v).clb = s.clb ∧ (s.ackWordRead c l e v).ptb = s.ptb
    ∧ (s.ackWordRead c l e v).zsv = s.zsv ∧ (s.ackWordRead c l e v).pse = s.pse
    ∧ (s.ackWordRead c l e v).window = s.window ∧ (s.ackWordRead c l e v).freeIndex = s.freeIndex
    ∧ (s.ackWordRead c l e v).pending = s.pending := by
  unfold State.ackWordRead; dsimp only; split
  · split <;> simp
  · simp

/-- The end of a record, EVENT apart. -/
@[simp] theorem State.recordFinished_frame (s : State) (c : Configuration) (b : Option Event) :
    (s.recordFinished c b).rqh = s.rqh ∧ (s.recordFinished c b).clb = s.clb
    ∧ (s.recordFinished c b).ptb = s.ptb ∧ (s.recordFinished c b).zsv = s.zsv
    ∧ (s.recordFinished c b).pse = s.pse ∧ (s.recordFinished c b).window = s.window
    ∧ (s.recordFinished c b).freeIndex = s.freeIndex ∧ (s.recordFinished c b).pending = s.pending := by
  unfold State.recordFinished; dsimp only; split
  · simp
  · split <;> simp

/-- The end of a record raises EVENT and changes nothing else of ENG (R135). -/
@[simp] theorem State.recordFinished_eng (s : State) (c : Configuration) (b : Option Event) :
    (s.recordFinished c b).eng = { s.eng with cause := s.eng.cause ||| Cause.event.bit } := by
  unfold State.recordFinished; dsimp only; split
  · simp
  · split <;> simp

/-- With no configuration an event handed is not recorded and not counted (R132). -/
theorem State.hand_of_no_config {s : State} (h : s.eng.config = none) (e : Event) : s.hand e = s := by
  unfold State.hand; rw [h]

/-- An event handed to a full queue is dropped at once (R132). -/
theorem State.hand_of_full {s : State} {c : Configuration} (h : s.eng.config = some c) (e : Event)
    (hq : Config.queueCapacity ≤ s.evr.queue.length) : s.hand e = { s with evr := s.evr.drop } := by
  unfold State.hand; rw [h]; simp only [if_pos hq]

/-- An event handed to a working EVR joins the end of the queue (R132). -/
theorem State.hand_of_busy {s : State} {c : Configuration} (h : s.eng.config = some c) (e : Event)
    (hq : s.evr.queue.length < Config.queueCapacity) (hw : s.evr.work ≠ .idle) :
    s.hand e = { s with evr := { s.evr with queue := s.evr.queue ++ [e] } } := by
  unfold State.hand; rw [h]; simp only [if_neg (Nat.not_le.mpr hq)]
  split <;> rename_i hh
  · exact absurd hh hw
  · rfl
  · rfl

end Sys2Proof.Machine
end

