-- ==== Sys2Proof/Laws/Tables.lean ====
section
/-! SUPPORT. Entries of a tabulated table. -/
namespace Sys2Proof.Machine

/-- Entry `i` of a tabulated table is `f i`. -/
@[simp] theorem tabulate_getElem {α : Type} (n : Nat) (f : Fin n → α) (i : Nat) (h : i < n) :
    (tabulate n f)[i] = f ⟨i, h⟩ := by
  show ((List.finRange n).map f)[i]'(by simpa using h) = f ⟨i, h⟩
  simp

/-- An index from a parameter word is that word's value. -/
theorem toIndex_eq_some {n : Nat} {w : Word} {i : Fin n} (h : toIndex n w = some i) : i.val = w.toNat := by
  unfold toIndex at h
  split at h
  · cases h; rfl
  · cases h

/-- A parameter word below the table's size gives its index. -/
theorem toIndex_of_lt {n : Nat} {w : Word} (h : w.toNat < n) : toIndex n w = some ⟨w.toNat, h⟩ := by
  simp [toIndex, h]

/-- A parameter word at or above the table's size gives none. -/
theorem toIndex_of_le {n : Nat} {w : Word} (h : n ≤ w.toNat) : toIndex n w = none := by
  simp [toIndex, Nat.not_lt.mpr h]

end Sys2Proof.Machine
end

