-- ==== Sys2Proof/Laws/Requests.lean ====
section
/-! SUPPORT. The request handler's operations: which blocks each leaves as they were. -/
namespace Sys2Proof.Machine

/-- Beginning a scan. -/
@[simp] theorem State.beginScan_frame (s : State) :
    (s.beginScan).eng = s.eng ∧ (s.beginScan).clb = s.clb ∧ (s.beginScan).ptb = s.ptb
    ∧ (s.beginScan).zsv = s.zsv ∧ (s.beginScan).pse = s.pse ∧ (s.beginScan).evr = s.evr
    ∧ (s.beginScan).window = s.window ∧ (s.beginScan).freeIndex = s.freeIndex
    ∧ (s.beginScan).pending = s.pending := by
  simp [State.beginScan]

/-- A scan occasion. -/
@[simp] theorem State.scanOccasion_frame (s : State) :
    (s.scanOccasion).eng = s.eng ∧ (s.scanOccasion).clb = s.clb ∧ (s.scanOccasion).ptb = s.ptb
    ∧ (s.scanOccasion).zsv = s.zsv ∧ (s.scanOccasion).pse = s.pse ∧ (s.scanOccasion).evr = s.evr
    ∧ (s.scanOccasion).window = s.window ∧ (s.scanOccasion).freeIndex = s.freeIndex
    ∧ (s.scanOccasion).pending = s.pending := by
  unfold State.scanOccasion; split <;> simp

/-- The end of a scan without a take. -/
@[simp] theorem State.endScan_frame (s : State) (h : Vector Word 16) :
    (s.endScan h).eng = s.eng ∧ (s.endScan h).clb = s.clb ∧ (s.endScan h).ptb = s.ptb
    ∧ (s.endScan h).zsv = s.zsv ∧ (s.endScan h).pse = s.pse ∧ (s.endScan h).evr = s.evr
    ∧ (s.endScan h).window = s.window ∧ (s.endScan h).freeIndex = s.freeIndex
    ∧ (s.endScan h).pending = s.pending := by
  unfold State.endScan; dsimp only; split <;> simp

/-- Beginning a take. -/
@[simp] theorem State.beginTake_frame (s : State) (b : Fin 16) (w : Word) :
    (s.beginTake b w).eng = s.eng ∧ (s.beginTake b w).clb = s.clb ∧ (s.beginTake b w).ptb = s.ptb
    ∧ (s.beginTake b w).zsv = s.zsv ∧ (s.beginTake b w).pse = s.pse ∧ (s.beginTake b w).evr = s.evr
    ∧ (s.beginTake b w).window = s.window ∧ (s.beginTake b w).freeIndex = s.freeIndex
    ∧ (s.beginTake b w).pending = s.pending := by
  simp [State.beginTake]

/-- The end of the stale refusals. -/
@[simp] theorem State.takeOrEnd_frame (s : State) (h : Vector Word 16) :
    (s.takeOrEnd h).eng = s.eng ∧ (s.takeOrEnd h).clb = s.clb ∧ (s.takeOrEnd h).ptb = s.ptb
    ∧ (s.takeOrEnd h).zsv = s.zsv ∧ (s.takeOrEnd h).pse = s.pse ∧ (s.takeOrEnd h).evr = s.evr
    ∧ (s.takeOrEnd h).window = s.window ∧ (s.takeOrEnd h).freeIndex = s.freeIndex
    ∧ (s.takeOrEnd h).pending = s.pending := by
  unfold State.takeOrEnd; split <;> simp

/-- Issuing a stale refusal write. -/
@[simp] theorem State.staleStep_frame (s : State) (h : Vector Word 16) (b : Fin 16) (k : Fin 8) :
    (s.staleStep h b k).eng = s.eng ∧ (s.staleStep h b k).clb = s.clb ∧ (s.staleStep h b k).ptb = s.ptb
    ∧ (s.staleStep h b k).zsv = s.zsv ∧ (s.staleStep h b k).pse = s.pse ∧ (s.staleStep h b k).evr = s.evr
    ∧ (s.staleStep h b k).window = s.window ∧ (s.staleStep h b k).freeIndex = s.freeIndex
    ∧ (s.staleStep h b k).pending = s.pending := by
  simp [State.staleStep]

/-- Going on with the stale refusals. -/
@[simp] theorem State.refuseStaleFrom_frame (s : State) (h : Vector Word 16) (n : Nat) :
    (s.refuseStaleFrom h n).eng = s.eng ∧ (s.refuseStaleFrom h n).clb = s.clb
    ∧ (s.refuseStaleFrom h n).ptb = s.ptb ∧ (s.refuseStaleFrom h n).zsv = s.zsv
    ∧ (s.refuseStaleFrom h n).pse = s.pse ∧ (s.refuseStaleFrom h n).evr = s.evr
    ∧ (s.refuseStaleFrom h n).window = s.window ∧ (s.refuseStaleFrom h n).freeIndex = s.freeIndex
    ∧ (s.refuseStaleFrom h n).pending = s.pending := by
  unfold State.refuseStaleFrom; split <;> simp

/-- A slot read. -/
@[simp] theorem State.slotRead_frame (s : State) (k : Fin 16) (h : Vector Word 16) (w : Word) :
    (s.slotRead k h w).eng = s.eng ∧ (s.slotRead k h w).clb = s.clb ∧ (s.slotRead k h w).ptb = s.ptb
    ∧ (s.slotRead k h w).zsv = s.zsv ∧ (s.slotRead k h w).pse = s.pse ∧ (s.slotRead k h w).evr = s.evr
    ∧ (s.slotRead k h w).window = s.window ∧ (s.slotRead k h w).freeIndex = s.freeIndex
    ∧ (s.slotRead k h w).pending = s.pending := by
  unfold State.slotRead; dsimp only; split <;> simp

/-- A stale refusal write answered, REQ_DONE apart. -/
@[simp] theorem State.staleWritten_frame (s : State) (h : Vector Word 16) (b : Fin 16) (k : Fin 8) :
    (s.staleWritten h b k).clb = s.clb ∧ (s.staleWritten h b k).ptb = s.ptb
    ∧ (s.staleWritten h b k).zsv = s.zsv ∧ (s.staleWritten h b k).pse = s.pse
    ∧ (s.staleWritten h b k).evr = s.evr ∧ (s.staleWritten h b k).window = s.window
    ∧ (s.staleWritten h b k).freeIndex = s.freeIndex ∧ (s.staleWritten h b k).pending = s.pending := by
  unfold State.staleWritten; split <;> simp

/-- A parameter word read. -/
@[simp] theorem State.parameterRead_frame (s : State) (b : Fin 16) (h : Word) (k : Fin 8) (p : Vector Word 8) (w : Word) :
    (s.parameterRead b h k p w).eng = s.eng ∧ (s.parameterRead b h k p w).clb = s.clb
    ∧ (s.parameterRead b h k p w).ptb = s.ptb ∧ (s.parameterRead b h k p w).zsv = s.zsv
    ∧ (s.parameterRead b h k p w).pse = s.pse ∧ (s.parameterRead b h k p w).evr = s.evr
    ∧ (s.parameterRead b h k p w).window = s.window ∧ (s.parameterRead b h k p w).freeIndex = s.freeIndex
    ∧ (s.parameterRead b h k p w).pending = s.pending := by
  unfold State.parameterRead; dsimp only; split <;> simp

/-- The TAKEN write answered. -/
@[simp] theorem State.requestTaken_frame (s : State) (b : Fin 16) (h : Word) (p : Vector Word 8) :
    (s.requestTaken b h p).eng = s.eng ∧ (s.requestTaken b h p).clb = s.clb
    ∧ (s.requestTaken b h p).ptb = s.ptb ∧ (s.requestTaken b h p).zsv = s.zsv
    ∧ (s.requestTaken b h p).pse = s.pse ∧ (s.requestTaken b h p).evr = s.evr
    ∧ (s.requestTaken b h p).window = s.window ∧ (s.requestTaken b h p).freeIndex = s.freeIndex
    ∧ (s.requestTaken b h p).pending = s.pending := by
  simp [State.requestTaken]

/-- Issuing a finishing write. -/
@[simp] theorem State.finishStep_frame (s : State) (h : Held) (c : ResultCode) (r : Vector Word 6) (k : Fin 8) :
    (s.finishStep h c r k).eng = s.eng ∧ (s.finishStep h c r k).clb = s.clb
    ∧ (s.finishStep h c r k).ptb = s.ptb ∧ (s.finishStep h c r k).zsv = s.zsv
    ∧ (s.finishStep h c r k).pse = s.pse ∧ (s.finishStep h c r k).evr = s.evr
    ∧ (s.finishStep h c r k).window = s.window ∧ (s.finishStep h c r k).freeIndex = s.freeIndex
    ∧ (s.finishStep h c r k).pending = s.pending := by
  simp [State.finishStep]

/-- Beginning to finish. -/
@[simp] theorem State.finish_frame (s : State) (h : Held) (c : ResultCode) (r : List Word) :
    (s.finish h c r).eng = s.eng ∧ (s.finish h c r).clb = s.clb ∧ (s.finish h c r).ptb = s.ptb
    ∧ (s.finish h c r).zsv = s.zsv ∧ (s.finish h c r).pse = s.pse ∧ (s.finish h c r).evr = s.evr
    ∧ (s.finish h c r).window = s.window ∧ (s.finish h c r).freeIndex = s.freeIndex
    ∧ (s.finish h c r).pending = s.pending := by
  simp [State.finish]

/-- Beginning to refuse. -/
@[simp] theorem State.refuse_frame (s : State) (h : Held) (r : RefusedWith) :
    (s.refuse h r).eng = s.eng ∧ (s.refuse h r).clb = s.clb ∧ (s.refuse h r).ptb = s.ptb
    ∧ (s.refuse h r).zsv = s.zsv ∧ (s.refuse h r).pse = s.pse ∧ (s.refuse h r).evr = s.evr
    ∧ (s.refuse h r).window = s.window ∧ (s.refuse h r).freeIndex = s.freeIndex
    ∧ (s.refuse h r).pending = s.pending := by
  simp [State.refuse]

/-- Refusing a LOAD_CURVE. -/
@[simp] theorem State.refuseLoad_frame (s : State) (h : Held) (r : RefusedWith) :
    (s.refuseLoad h r).eng = s.eng ∧ (s.refuseLoad h r).ptb = s.ptb ∧ (s.refuseLoad h r).zsv = s.zsv
    ∧ (s.refuseLoad h r).pse = s.pse ∧ (s.refuseLoad h r).evr = s.evr ∧ (s.refuseLoad h r).window = s.window
    ∧ (s.refuseLoad h r).freeIndex = s.freeIndex ∧ (s.refuseLoad h r).pending = s.pending := by
  simp [State.refuseLoad]

/-- Refusing a LOAD_CURVE discards the body under construction (R31). -/
@[simp] theorem State.refuseLoad_clb (s : State) (h : Held) (r : RefusedWith) : (s.refuseLoad h r).clb = s.clb.discard := by
  simp [State.refuseLoad]

/-- A finishing write answered, REQ_DONE apart. -/
@[simp] theorem State.finishingWritten_frame (s : State) (h : Held) (c : ResultCode) (r : Vector Word 6) (k : Fin 8) :
    (s.finishingWritten h c r k).clb = s.clb ∧ (s.finishingWritten h c r k).ptb = s.ptb
    ∧ (s.finishingWritten h c r k).zsv = s.zsv ∧ (s.finishingWritten h c r k).pse = s.pse
    ∧ (s.finishingWritten h c r k).evr = s.evr ∧ (s.finishingWritten h c r k).window = s.window
    ∧ (s.finishingWritten h c r k).freeIndex = s.freeIndex
    ∧ (s.finishingWritten h c r k).pending = s.pending := by
  unfold State.finishingWritten; split <;> simp

/-- Moving zones. -/
@[simp] theorem State.moveZones_frame (s : State) (n : Fin 256 → Bool) (m : PointZone → ZoneMove) :
    ((s.moveZones n m).1).eng = s.eng ∧ ((s.moveZones n m).1).rqh = s.rqh
    ∧ ((s.moveZones n m).1).clb = s.clb ∧ ((s.moveZones n m).1).ptb = s.ptb
    ∧ ((s.moveZones n m).1).pse = s.pse ∧ ((s.moveZones n m).1).evr = s.evr
    ∧ ((s.moveZones n m).1).bip = s.bip ∧ ((s.moveZones n m).1).window = s.window
    ∧ ((s.moveZones n m).1).freeIndex = s.freeIndex ∧ ((s.moveZones n m).1).pending = s.pending := by
  simp [State.moveZones]

/-- Moving zones keeps the zone sets. -/
@[simp] theorem State.moveZones_sets (s : State) (n : Fin 256 → Bool) (m : PointZone → ZoneMove) :
    (s.moveZones n m).1.zsv.sets = s.zsv.sets := rfl

/-- Moving zones, point by point. -/
theorem State.moveZones_zones (s : State) (n : Fin 256 → Bool) (m : PointZone → ZoneMove) (i : Fin 256) :
    (s.moveZones n m).1.zsv.zones[i] = if n i then (m s.zsv.zones[i]).zone else s.zsv.zones[i] := by
  simp only [State.moveZones, Fin.getElem_fin, tabulate_getElem]
  split <;> rfl

/-- Installation. -/
@[simp] theorem State.applyInstall_frame (s : State) (c : Fin 64) :
    ((s.applyInstall c).state).eng = s.eng ∧ ((s.applyInstall c).state).rqh = s.rqh
    ∧ ((s.applyInstall c).state).zsv = s.zsv ∧ ((s.applyInstall c).state).pse = s.pse
    ∧ ((s.applyInstall c).state).evr = s.evr ∧ ((s.applyInstall c).state).bip = s.bip
    ∧ ((s.applyInstall c).state).window = s.window ∧ ((s.applyInstall c).state).freeIndex = s.freeIndex
    ∧ ((s.applyInstall c).state).pending = s.pending := by
  unfold State.applyInstall; split <;> simp

/-- Deletion. -/
@[simp] theorem State.applyDelete_frame (s : State) (c : Fin 64) :
    ((s.applyDelete c).state).eng = s.eng ∧ ((s.applyDelete c).state).rqh = s.rqh
    ∧ ((s.applyDelete c).state).ptb = s.ptb ∧ ((s.applyDelete c).state).zsv = s.zsv
    ∧ ((s.applyDelete c).state).pse = s.pse ∧ ((s.applyDelete c).state).evr = s.evr
    ∧ ((s.applyDelete c).state).bip = s.bip ∧ ((s.applyDelete c).state).window = s.window
    ∧ ((s.applyDelete c).state).freeIndex = s.freeIndex ∧ ((s.applyDelete c).state).pending = s.pending := by
  simp [State.applyDelete]

/-- The apply step of SET_ZONES. -/
@[simp] theorem State.applySetZones_frame (s : State) (z : Fin 64) (v : ZoneSet) :
    ((s.applySetZones z v).state).eng = s.eng ∧ ((s.applySetZones z v).state).rqh = s.rqh
    ∧ ((s.applySetZones z v).state).clb = s.clb ∧ ((s.applySetZones z v).state).ptb = s.ptb
    ∧ ((s.applySetZones z v).state).pse = s.pse ∧ ((s.applySetZones z v).state).evr = s.evr
    ∧ ((s.applySetZones z v).state).bip = s.bip ∧ ((s.applySetZones z v).state).window = s.window
    ∧ ((s.applySetZones z v).state).freeIndex = s.freeIndex
    ∧ ((s.applySetZones z v).state).pending = s.pending := by
  simp [State.applySetZones]

/-- The apply step of SET_POINT. -/
@[simp] theorem State.applySetPoint_frame (s : State) (i : Fin 256) (d : PointDef) :
    ((s.applySetPoint i d).state).eng = s.eng ∧ ((s.applySetPoint i d).state).rqh = s.rqh
    ∧ ((s.applySetPoint i d).state).pse = s.pse ∧ ((s.applySetPoint i d).state).evr = s.evr
    ∧ ((s.applySetPoint i d).state).bip = s.bip ∧ ((s.applySetPoint i d).state).window = s.window
    ∧ ((s.applySetPoint i d).state).freeIndex = s.freeIndex
    ∧ ((s.applySetPoint i d).state).pending = s.pending := by
  simp [State.applySetPoint]

/-- The apply step of CLEAR_POINT. -/
@[simp] theorem State.applyClearPoint_frame (s : State) (i : Fin 256) :
    ((s.applyClearPoint i).state).eng = s.eng ∧ ((s.applyClearPoint i).state).rqh = s.rqh
    ∧ ((s.applyClearPoint i).state).pse = s.pse ∧ ((s.applyClearPoint i).state).evr = s.evr
    ∧ ((s.applyClearPoint i).state).bip = s.bip ∧ ((s.applyClearPoint i).state).window = s.window
    ∧ ((s.applyClearPoint i).state).freeIndex = s.freeIndex
    ∧ ((s.applyClearPoint i).state).pending = s.pending := by
  simp [State.applyClearPoint]

/-- The apply step of ACK_ZONE. -/
@[simp] theorem State.applyAckZone_frame (s : State) (t : AckTarget) :
    ((s.applyAckZone t).state).eng = s.eng ∧ ((s.applyAckZone t).state).rqh = s.rqh
    ∧ ((s.applyAckZone t).state).clb = s.clb ∧ ((s.applyAckZone t).state).ptb = s.ptb
    ∧ ((s.applyAckZone t).state).pse = s.pse ∧ ((s.applyAckZone t).state).evr = s.evr
    ∧ ((s.applyAckZone t).state).bip = s.bip ∧ ((s.applyAckZone t).state).window = s.window
    ∧ ((s.applyAckZone t).state).freeIndex = s.freeIndex ∧ ((s.applyAckZone t).state).pending = s.pending := by
  simp [State.applyAckZone]

/-- An apply step changes the tables alone. -/
@[simp] theorem State.applyEdit_frame (s : State) (e : Edit) :
    ((s.applyEdit e).state).eng = s.eng ∧ ((s.applyEdit e).state).rqh = s.rqh
    ∧ ((s.applyEdit e).state).pse = s.pse ∧ ((s.applyEdit e).state).evr = s.evr
    ∧ ((s.applyEdit e).state).bip = s.bip ∧ ((s.applyEdit e).state).window = s.window
    ∧ ((s.applyEdit e).state).freeIndex = s.freeIndex ∧ ((s.applyEdit e).state).pending = s.pending := by
  cases e <;> simp [State.applyEdit]

/-- An apply step taken, its finishing begun. -/
@[simp] theorem State.takeEdit_frame (s : State) (h : Held) (e : Edit) :
    ((s.takeEdit h e).1).eng = s.eng ∧ ((s.takeEdit h e).1).pse = s.pse ∧ ((s.takeEdit h e).1).evr = s.evr
    ∧ ((s.takeEdit h e).1).window = s.window ∧ ((s.takeEdit h e).1).freeIndex = s.freeIndex
    ∧ ((s.takeEdit h e).1).pending = s.pending := by
  simp [State.takeEdit]

/-- The tables after an apply step taken are those its owner leaves. -/
@[simp] theorem State.takeEdit_tables (s : State) (h : Held) (e : Edit) :
    (s.takeEdit h e).1.clb = (s.applyEdit e).state.clb ∧ (s.takeEdit h e).1.ptb = (s.applyEdit e).state.ptb
    ∧ (s.takeEdit h e).1.zsv = (s.applyEdit e).state.zsv := by
  simp [State.takeEdit]

/-- An apply step taken at once. -/
@[simp] theorem State.applyNow_frame (s : State) (h : Held) (e : Edit) :
    (s.applyNow h e).eng = s.eng ∧ (s.applyNow h e).pse = s.pse ∧ (s.applyNow h e).window = s.window
    ∧ (s.applyNow h e).freeIndex = s.freeIndex ∧ (s.applyNow h e).pending = s.pending := by
  simp [State.applyNow]

/-- The tables after an apply step taken at once are those its owner leaves. -/
@[simp] theorem State.applyNow_tables (s : State) (h : Held) (e : Edit) :
    (s.applyNow h e).clb = (s.applyEdit e).state.clb ∧ (s.applyNow h e).ptb = (s.applyEdit e).state.ptb
    ∧ (s.applyNow h e).zsv = (s.applyEdit e).state.zsv := by
  simp [State.applyNow]

/-- Reaching the apply step. -/
@[simp] theorem State.reachApply_frame (s : State) (h : Held) (e : Edit) :
    (s.reachApply h e).eng = s.eng ∧ (s.reachApply h e).pse = s.pse ∧ (s.reachApply h e).window = s.window
    ∧ (s.reachApply h e).freeIndex = s.freeIndex ∧ (s.reachApply h e).pending = s.pending := by
  unfold State.reachApply; split <;> simp

/-- Reaching the apply step either leaves the tables or makes the owner's change (R152). -/
theorem State.reachApply_tables (s : State) (h : Held) (e : Edit) :
    ((s.reachApply h e).clb = s.clb ∧ (s.reachApply h e).ptb = s.ptb ∧ (s.reachApply h e).zsv = s.zsv
      ∧ (s.reachApply h e).rqh = { s.rqh with held := some { h with stage := .awaitApply e false } })
    ∨ s.reachApply h e = s.applyNow h e := by
  unfold State.reachApply; split
  · exact .inl ⟨rfl, rfl, rfl, rfl⟩
  · exact .inr rfl

/-- CONFIGURE's effect. -/
@[simp] theorem State.configureEffect_frame (s : State) (h : Held) (c : Configuration) :
    (s.configureEffect h c).clb = s.clb ∧ (s.configureEffect h c).ptb = s.ptb
    ∧ (s.configureEffect h c).zsv = s.zsv ∧ (s.configureEffect h c).window = s.window
    ∧ (s.configureEffect h c).freeIndex = s.freeIndex ∧ (s.configureEffect h c).pending = s.pending := by
  simp [State.configureEffect]

/-- The configuration stored. -/
@[simp] theorem State.configureStored_frame (s : State) (h : Held) (c : Configuration) (b : Bool) (w : Word) :
    (s.configureStored h c b w).clb = s.clb ∧ (s.configureStored h c b w).ptb = s.ptb
    ∧ (s.configureStored h c b w).zsv = s.zsv ∧ (s.configureStored h c b w).pse = s.pse
    ∧ (s.configureStored h c b w).evr = s.evr ∧ (s.configureStored h c b w).window = s.window
    ∧ (s.configureStored h c b w).freeIndex = s.freeIndex ∧ (s.configureStored h c b w).pending = s.pending := by
  simp [State.configureStored]

/-- Zeroing the counters. -/
@[simp] theorem State.zeroCounters_frame (s : State) :
    (s.zeroCounters).eng = s.eng ∧ (s.zeroCounters).clb = s.clb ∧ (s.zeroCounters).ptb = s.ptb
    ∧ (s.zeroCounters).zsv = s.zsv ∧ (s.zeroCounters).bip = s.bip ∧ (s.zeroCounters).window = s.window
    ∧ (s.zeroCounters).freeIndex = s.freeIndex ∧ (s.zeroCounters).pending = s.pending := by
  simp [State.zeroCounters]

/-- An image word read. -/
@[simp] theorem State.imageWordRead_frame (s : State) (h : Held) (b : Building) (w : Word) :
    (s.imageWordRead h b w).eng = s.eng ∧ (s.imageWordRead h b w).pse = s.pse
    ∧ (s.imageWordRead h b w).window = s.window ∧ (s.imageWordRead h b w).freeIndex = s.freeIndex
    ∧ (s.imageWordRead h b w).pending = s.pending := by
  unfold State.imageWordRead; dsimp only; split
  · simp
  · split <;> simp

/-- Work on a held request leaves the window and the queue of commands. -/
@[simp] theorem State.beginWork_frame (s : State) (h : Held) :
    (s.beginWork h).window = s.window ∧ (s.beginWork h).freeIndex = s.freeIndex
    ∧ (s.beginWork h).pending = s.pending := by
  unfold State.beginWork; split
  · simp [State.workNop]
  · unfold State.workConfigure; split <;> simp
  · unfold State.workLoad; split <;> simp
  · unfold State.workDelete; split
    · simp
    · dsimp only; split
      · simp
      · split <;> simp
  · unfold State.workQuery; split <;> simp
  · unfold State.workSetZones; split <;> simp
  · unfold State.workSetPoint; split <;> simp
  · unfold State.workClearPoint; split
    · simp
    · split <;> simp
  · unfold State.workAckZone; split <;> simp
  · unfold State.workReadCounters; dsimp only; split <;> simp
  · simp

end Sys2Proof.Machine
end

