-- ==== Sys2Proof/Laws/Pass.lean ====
section
/-! SUPPORT. The pass engine's operations: which blocks each leaves as they were, and the law that a trigger is
pending only in a pass. -/
namespace Sys2Proof.Machine

/-- Beginning a pass. -/
@[simp] theorem State.beginPass_frame (s : State) :
    (s.beginPass).eng = s.eng ∧ (s.beginPass).rqh = s.rqh ∧ (s.beginPass).clb = s.clb
    ∧ (s.beginPass).ptb = s.ptb ∧ (s.beginPass).zsv = s.zsv ∧ (s.beginPass).evr = s.evr
    ∧ (s.beginPass).window = s.window ∧ (s.beginPass).freeIndex = s.freeIndex
    ∧ (s.beginPass).pending = s.pending := by
  simp [State.beginPass]

/-- Taking a trigger. -/
@[simp] theorem State.trigger_frame (s : State) :
    (s.trigger).eng = s.eng ∧ (s.trigger).rqh = s.rqh ∧ (s.trigger).clb = s.clb ∧ (s.trigger).ptb = s.ptb
    ∧ (s.trigger).zsv = s.zsv ∧ (s.trigger).evr = s.evr ∧ (s.trigger).window = s.window
    ∧ (s.trigger).freeIndex = s.freeIndex ∧ (s.trigger).pending = s.pending := by
  unfold State.trigger; split
  · simp
  · split <;> simp

/-- The apply step of an end of pass. -/
@[simp] theorem State.boundaryApply_frame (s : State) (n : Bool) :
    ((s.boundaryApply n).1).eng = s.eng ∧ ((s.boundaryApply n).1).pse = s.pse
    ∧ ((s.boundaryApply n).1).evr = s.evr ∧ ((s.boundaryApply n).1).window = s.window
    ∧ ((s.boundaryApply n).1).freeIndex = s.freeIndex ∧ ((s.boundaryApply n).1).pending = s.pending := by
  unfold State.boundaryApply; split
  · simp
  · split <;> try simp
    split <;> simp

/-- The last steps of an end of pass. -/
@[simp] theorem State.afterPass_frame (s : State) (h : Bool) :
    (s.afterPass h).rqh = s.rqh ∧ (s.afterPass h).clb = s.clb ∧ (s.afterPass h).ptb = s.ptb
    ∧ (s.afterPass h).zsv = s.zsv ∧ (s.afterPass h).evr = s.evr ∧ (s.afterPass h).window = s.window
    ∧ (s.afterPass h).freeIndex = s.freeIndex ∧ (s.afterPass h).pending = s.pending := by
  unfold State.afterPass; split
  · simp
  · split <;> simp

/-- The end of a pass leaves the window. -/
@[simp] theorem State.endPass_frame (s : State) (l : Bool) (e : Option Event) :
    (s.endPass l e).window = s.window ∧ (s.endPass l e).pending = s.pending := by
  simp [State.endPass]

/-- A skipped pass. -/
@[simp] theorem State.skipPass_frame (s : State) (w : Word) :
    (s.skipPass w).window = s.window ∧ (s.skipPass w).pending = s.pending := by
  simp [State.skipPass]

/-- Reading the hold word. -/
@[simp] theorem State.readHold_frame (s : State) :
    (s.readHold).eng = s.eng ∧ (s.readHold).rqh = s.rqh ∧ (s.readHold).clb = s.clb
    ∧ (s.readHold).ptb = s.ptb ∧ (s.readHold).zsv = s.zsv ∧ (s.readHold).evr = s.evr
    ∧ (s.readHold).window = s.window ∧ (s.readHold).freeIndex = s.freeIndex
    ∧ (s.readHold).pending = s.pending := by
  simp [State.readHold]

/-- A pass takes its number. -/
@[simp] theorem State.numberPass_frame (s : State) (w : Word) :
    (s.numberPass w).eng = s.eng ∧ (s.numberPass w).rqh = s.rqh ∧ (s.numberPass w).clb = s.clb
    ∧ (s.numberPass w).ptb = s.ptb ∧ (s.numberPass w).zsv = s.zsv ∧ (s.numberPass w).evr = s.evr
    ∧ (s.numberPass w).window = s.window ∧ (s.numberPass w).freeIndex = s.freeIndex
    ∧ (s.numberPass w).pending = s.pending := by
  unfold State.numberPass; dsimp only; split <;> simp

/-- The start stamp read. -/
@[simp] theorem State.startStampRead_frame (s : State) (w : Word) :
    (s.startStampRead w).window = s.window ∧ (s.startStampRead w).pending = s.pending := by
  unfold State.startStampRead; split <;> simp

/-- The publication word read. -/
@[simp] theorem State.unconfirmedRead_frame (s : State) (w : Word) :
    (s.unconfirmedRead w).eng = s.eng ∧ (s.unconfirmedRead w).rqh = s.rqh
    ∧ (s.unconfirmedRead w).clb = s.clb ∧ (s.unconfirmedRead w).ptb = s.ptb
    ∧ (s.unconfirmedRead w).zsv = s.zsv ∧ (s.unconfirmedRead w).evr = s.evr
    ∧ (s.unconfirmedRead w).window = s.window ∧ (s.unconfirmedRead w).freeIndex = s.freeIndex
    ∧ (s.unconfirmedRead w).pending = s.pending := by
  simp [State.unconfirmedRead]

/-- Issuing a FILLING header write. -/
@[simp] theorem State.fillingStep_frame (s : State) (c : Configuration) (k : Fin 4) :
    (s.fillingStep c k).eng = s.eng ∧ (s.fillingStep c k).rqh = s.rqh ∧ (s.fillingStep c k).clb = s.clb
    ∧ (s.fillingStep c k).ptb = s.ptb ∧ (s.fillingStep c k).zsv = s.zsv ∧ (s.fillingStep c k).evr = s.evr
    ∧ (s.fillingStep c k).window = s.window ∧ (s.fillingStep c k).freeIndex = s.freeIndex
    ∧ (s.fillingStep c k).pending = s.pending := by
  simp [State.fillingStep]

/-- The hold word read. -/
@[simp] theorem State.holdRead_frame (s : State) (c : Configuration) (w : Word) :
    (s.holdRead c w).eng = s.eng ∧ (s.holdRead c w).rqh = s.rqh ∧ (s.holdRead c w).clb = s.clb
    ∧ (s.holdRead c w).ptb = s.ptb ∧ (s.holdRead c w).zsv = s.zsv ∧ (s.holdRead c w).evr = s.evr
    ∧ (s.holdRead c w).window = s.window ∧ (s.holdRead c w).freeIndex = s.freeIndex
    ∧ (s.holdRead c w).pending = s.pending := by
  simp [State.holdRead]

/-- Issuing a COMPLETE header write. -/
@[simp] theorem State.completeStep_frame (s : State) (c : Configuration) (k : Fin 4) :
    (s.completeStep c k).eng = s.eng ∧ (s.completeStep c k).rqh = s.rqh ∧ (s.completeStep c k).clb = s.clb
    ∧ (s.completeStep c k).ptb = s.ptb ∧ (s.completeStep c k).zsv = s.zsv ∧ (s.completeStep c k).evr = s.evr
    ∧ (s.completeStep c k).window = s.window ∧ (s.completeStep c k).freeIndex = s.freeIndex
    ∧ (s.completeStep c k).pending = s.pending := by
  simp [State.completeStep]

/-- Issuing an entry. -/
@[simp] theorem State.writeEntry_frame (s : State) (c : Configuration) (i : Fin 256) (v q : Word) :
    (s.writeEntry c i v q).eng = s.eng ∧ (s.writeEntry c i v q).rqh = s.rqh
    ∧ (s.writeEntry c i v q).clb = s.clb ∧ (s.writeEntry c i v q).ptb = s.ptb
    ∧ (s.writeEntry c i v q).zsv = s.zsv ∧ (s.writeEntry c i v q).evr = s.evr
    ∧ (s.writeEntry c i v q).window = s.window ∧ (s.writeEntry c i v q).freeIndex = s.freeIndex
    ∧ (s.writeEntry c i v q).pending = s.pending := by
  simp [State.writeEntry]

/-- The conversion of a point. -/
@[simp] theorem State.completePoint_frame (s : State) (c : Configuration) (i : Fin 256) (d : PointDef) (r : SourceResult) :
    (s.completePoint c i d r).eng = s.eng ∧ (s.completePoint c i d r).rqh = s.rqh
    ∧ (s.completePoint c i d r).clb = s.clb ∧ (s.completePoint c i d r).window = s.window
    ∧ (s.completePoint c i d r).freeIndex = s.freeIndex ∧ (s.completePoint c i d r).pending = s.pending := by
  simp [State.completePoint]

/-- Reaching a point. -/
@[simp] theorem State.convertPoint_frame (s : State) (c : Configuration) (i : Fin 256) :
    (s.convertPoint c i).eng = s.eng ∧ (s.convertPoint c i).rqh = s.rqh ∧ (s.convertPoint c i).clb = s.clb
    ∧ (s.convertPoint c i).window = s.window ∧ (s.convertPoint c i).freeIndex = s.freeIndex
    ∧ (s.convertPoint c i).pending = s.pending := by
  unfold State.convertPoint; split
  · simp
  · split
    · split <;> simp
    · simp

/-- An input word read. -/
@[simp] theorem State.inputRead_frame (s : State) (c : Configuration) (i : Fin 256) (w : Word) :
    (s.inputRead c i w).eng = s.eng ∧ (s.inputRead c i w).rqh = s.rqh ∧ (s.inputRead c i w).clb = s.clb
    ∧ (s.inputRead c i w).window = s.window ∧ (s.inputRead c i w).freeIndex = s.freeIndex
    ∧ (s.inputRead c i w).pending = s.pending := by
  unfold State.inputRead; split
  · split <;> simp
  · simp

/-- A FILLING header write answered. -/
@[simp] theorem State.fillingWritten_frame (s : State) (c : Configuration) (k : Fin 4) :
    (s.fillingWritten c k).eng = s.eng ∧ (s.fillingWritten c k).rqh = s.rqh
    ∧ (s.fillingWritten c k).clb = s.clb ∧ (s.fillingWritten c k).window = s.window
    ∧ (s.fillingWritten c k).freeIndex = s.freeIndex ∧ (s.fillingWritten c k).pending = s.pending := by
  unfold State.fillingWritten; split <;> simp

/-- The value word of an entry answered. -/
@[simp] theorem State.entryValueWritten_frame (s : State) (c : Configuration) (i : Fin 256) (v q : Word) :
    (s.entryValueWritten c i v q).eng = s.eng ∧ (s.entryValueWritten c i v q).rqh = s.rqh
    ∧ (s.entryValueWritten c i v q).clb = s.clb ∧ (s.entryValueWritten c i v q).ptb = s.ptb
    ∧ (s.entryValueWritten c i v q).zsv = s.zsv ∧ (s.entryValueWritten c i v q).evr = s.evr
    ∧ (s.entryValueWritten c i v q).window = s.window
    ∧ (s.entryValueWritten c i v q).freeIndex = s.freeIndex
    ∧ (s.entryValueWritten c i v q).pending = s.pending := by
  simp [State.entryValueWritten]

/-- An entry answered. -/
@[simp] theorem State.entryWritten_frame (s : State) (c : Configuration) (i : Fin 256) (v q : Word) :
    (s.entryWritten c i v q).eng = s.eng ∧ (s.entryWritten c i v q).rqh = s.rqh
    ∧ (s.entryWritten c i v q).clb = s.clb ∧ (s.entryWritten c i v q).window = s.window
    ∧ (s.entryWritten c i v q).freeIndex = s.freeIndex ∧ (s.entryWritten c i v q).pending = s.pending := by
  unfold State.entryWritten; dsimp only; split <;> simp

/-- The end stamp read. -/
@[simp] theorem State.endStampRead_frame (s : State) (c : Configuration) (w : Word) :
    (s.endStampRead c w).eng = s.eng ∧ (s.endStampRead c w).rqh = s.rqh ∧ (s.endStampRead c w).clb = s.clb
    ∧ (s.endStampRead c w).ptb = s.ptb ∧ (s.endStampRead c w).zsv = s.zsv ∧ (s.endStampRead c w).evr = s.evr
    ∧ (s.endStampRead c w).window = s.window ∧ (s.endStampRead c w).freeIndex = s.freeIndex
    ∧ (s.endStampRead c w).pending = s.pending := by
  simp [State.endStampRead]

/-- Issuing the publication word. -/
@[simp] theorem State.writePublication_frame (s : State) :
    (s.writePublication).eng = s.eng ∧ (s.writePublication).rqh = s.rqh ∧ (s.writePublication).clb = s.clb
    ∧ (s.writePublication).ptb = s.ptb ∧ (s.writePublication).zsv = s.zsv ∧ (s.writePublication).evr = s.evr
    ∧ (s.writePublication).window = s.window ∧ (s.writePublication).freeIndex = s.freeIndex
    ∧ (s.writePublication).pending = s.pending := by
  simp [State.writePublication]

/-- A COMPLETE header write answered. -/
@[simp] theorem State.completeWritten_frame (s : State) (c : Configuration) (k : Fin 4) :
    (s.completeWritten c k).eng = s.eng ∧ (s.completeWritten c k).rqh = s.rqh
    ∧ (s.completeWritten c k).clb = s.clb ∧ (s.completeWritten c k).ptb = s.ptb
    ∧ (s.completeWritten c k).zsv = s.zsv ∧ (s.completeWritten c k).evr = s.evr
    ∧ (s.completeWritten c k).window = s.window ∧ (s.completeWritten c k).freeIndex = s.freeIndex
    ∧ (s.completeWritten c k).pending = s.pending := by
  unfold State.completeWritten; split <;> simp

/-- A publication. -/
@[simp] theorem State.publish_frame (s : State) :
    (s.publish).window = s.window ∧ (s.publish).pending = s.pending := by
  simp [State.publish]

/-- Taking a trigger leaves a trigger pending only in a pass (R98). -/
theorem State.trigger_pendingLaw (s : State) : s.trigger.pse.pendingLaw := by
  unfold State.trigger
  split <;> rename_i hp
  · intro _; rfl
  · split
    · intro _
      cases hq : s.pse.pass with
      | none => rw [hq] at hp; exact absurd rfl hp
      | some _ => simp [Pse.loseTrigger, hq]
    · intro _
      cases hq : s.pse.pass with
      | none => rw [hq] at hp; exact absurd rfl hp
      | some _ => rfl

/-- The end of a pass leaves the law, whatever was pending (R107 steps 4 and 5). -/
theorem State.endPass_pendingLaw (s : State) (l : Bool) (e : Option Event) : (s.endPass l e).pse.pendingLaw := by
  unfold State.endPass
  dsimp only
  unfold State.afterPass
  split
  · intro h; cases h
  · split <;> rename_i h
    · intro _; rfl
    · intro h'; exact absurd h' h

end Sys2Proof.Machine
end

