-- ==== Sys2Proof/Laws/Ops.lean ====
section
/-! SUPPORT. Failures, grants and answers: which blocks each leaves as they were; what a grant does when every waiting access
passes the comparison; and the ways a property of the state is kept through an answer. -/
namespace Sys2Proof.Machine

/-- The completion of fault entry. -/
@[simp] theorem State.completeFaultEntry_frame (s : State) :
    (s.completeFaultEntry).rqh = s.rqh ∧ (s.completeFaultEntry).clb = s.clb
    ∧ (s.completeFaultEntry).ptb = s.ptb ∧ (s.completeFaultEntry).zsv = s.zsv
    ∧ (s.completeFaultEntry).pse = s.pse ∧ (s.completeFaultEntry).evr = s.evr
    ∧ (s.completeFaultEntry).bip = s.bip ∧ (s.completeFaultEntry).window = s.window
    ∧ (s.completeFaultEntry).freeIndex = s.freeIndex ∧ (s.completeFaultEntry).pending = s.pending := by
  simp [State.completeFaultEntry]

/-- Issuing a word of the abandon-write. -/
@[simp] theorem State.abandonStep_frame (s : State) (h : Held) (b : Bool) :
    (s.abandonStep h b).eng = s.eng ∧ (s.abandonStep h b).clb = s.clb ∧ (s.abandonStep h b).ptb = s.ptb
    ∧ (s.abandonStep h b).zsv = s.zsv ∧ (s.abandonStep h b).pse = s.pse ∧ (s.abandonStep h b).evr = s.evr
    ∧ (s.abandonStep h b).window = s.window ∧ (s.abandonStep h b).freeIndex = s.freeIndex
    ∧ (s.abandonStep h b).pending = s.pending := by
  simp [State.abandonStep]

/-- RQH at fault entry. -/
@[simp] theorem State.abandonHeld_frame (s : State) :
    (s.abandonHeld).clb = s.clb ∧ (s.abandonHeld).ptb = s.ptb ∧ (s.abandonHeld).zsv = s.zsv
    ∧ (s.abandonHeld).pse = s.pse ∧ (s.abandonHeld).evr = s.evr ∧ (s.abandonHeld).window = s.window
    ∧ (s.abandonHeld).freeIndex = s.freeIndex ∧ (s.abandonHeld).pending = s.pending := by
  unfold State.abandonHeld; dsimp only; split
  · simp
  · split <;> simp

/-- Fault entry leaves the points, the zones and the window. -/
@[simp] theorem State.enterFault_frame (s : State) (k : FaultKind) (c : Client) (o : Nat) :
    (s.enterFault k c o).ptb = s.ptb ∧ (s.enterFault k c o).zsv = s.zsv
    ∧ (s.enterFault k c o).window = s.window ∧ (s.enterFault k c o).freeIndex = s.freeIndex
    ∧ (s.enterFault k c o).pending = s.pending := by
  simp [State.enterFault]

/-- Fault entry on the blocks that end their work, and on the engine state (R178). -/
theorem State.enterFault_blocks (s : State) (k : FaultKind) (c : Client) (o : Nat) :
    (s.enterFault k c o).pse = s.pse.abandon ∧ (s.enterFault k c o).evr = s.evr.endAtFault
    ∧ (s.enterFault k c o).clb = s.clb.discard ∧ (s.enterFault k c o).eng.engine = .faulted
    ∧ (s.enterFault k c o).eng.faultRecord = some ⟨k, c, o⟩ ∧ (s.enterFault k c o).eng.config = s.eng.config
    ∧ (s.enterFault k c o).eng.wbase = s.eng.wbase ∧ (s.enterFault k c o).eng.windowLength = s.eng.windowLength
    ∧ (s.enterFault k c o).rqh.scan = none := by
  unfold State.enterFault State.abandonHeld
  dsimp only
  cases s.rqh.held with
  | none => simp [State.completeFaultEntry]
  | some h => dsimp only; split <;> simp [State.completeFaultEntry, State.abandonStep]

/-- A failed abandon-write. -/
@[simp] theorem State.secondFault_frame (s : State) :
    (s.secondFault).clb = s.clb ∧ (s.secondFault).ptb = s.ptb ∧ (s.secondFault).zsv = s.zsv
    ∧ (s.secondFault).pse = s.pse ∧ (s.secondFault).evr = s.evr ∧ (s.secondFault).bip = s.bip
    ∧ (s.secondFault).window = s.window ∧ (s.secondFault).freeIndex = s.freeIndex
    ∧ (s.secondFault).pending = s.pending := by
  simp [State.secondFault]

/-- A word of the abandon-write answered. -/
@[simp] theorem State.abandonWritten_frame (s : State) (h : Held) (b : Bool) :
    (s.abandonWritten h b).clb = s.clb ∧ (s.abandonWritten h b).ptb = s.ptb
    ∧ (s.abandonWritten h b).zsv = s.zsv ∧ (s.abandonWritten h b).pse = s.pse
    ∧ (s.abandonWritten h b).evr = s.evr ∧ (s.abandonWritten h b).window = s.window
    ∧ (s.abandonWritten h b).freeIndex = s.freeIndex ∧ (s.abandonWritten h b).pending = s.pending := by
  unfold State.abandonWritten; split <;> simp

/-- An attach that fails. -/
@[simp] theorem State.attachFailed_frame (s : State) (r : AttachReason) :
    (s.attachFailed r).rqh = s.rqh ∧ (s.attachFailed r).clb = s.clb ∧ (s.attachFailed r).ptb = s.ptb
    ∧ (s.attachFailed r).zsv = s.zsv ∧ (s.attachFailed r).pse = s.pse ∧ (s.attachFailed r).evr = s.evr
    ∧ (s.attachFailed r).bip = s.bip ∧ (s.attachFailed r).window = s.window
    ∧ (s.attachFailed r).freeIndex = s.freeIndex ∧ (s.attachFailed r).pending = s.pending := by
  simp [State.attachFailed]

/-- An attach read answered. -/
@[simp] theorem State.attachWordRead_frame (s : State) (w : Word) :
    (s.attachWordRead w).clb = s.clb ∧ (s.attachWordRead w).ptb = s.ptb ∧ (s.attachWordRead w).zsv = s.zsv
    ∧ (s.attachWordRead w).pse = s.pse ∧ (s.attachWordRead w).evr = s.evr
    ∧ (s.attachWordRead w).window = s.window ∧ (s.attachWordRead w).freeIndex = s.freeIndex
    ∧ (s.attachWordRead w).pending = s.pending := by
  unfold State.attachWordRead; dsimp only; split
  · simp
  · split <;> simp [State.attached]

/-- The failure of an access leaves the points, the zones and the window. -/
@[simp] theorem State.accessFailed_frame (s : State) (k : FaultKind) (a : Access) :
    (s.accessFailed k a).ptb = s.ptb ∧ (s.accessFailed k a).zsv = s.zsv
    ∧ (s.accessFailed k a).window = s.window ∧ (s.accessFailed k a).freeIndex = s.freeIndex
    ∧ (s.accessFailed k a).pending = s.pending := by
  unfold State.accessFailed; split
  · simp
  · simp
  · simp
  · split
    · simp
    · split <;> simp

/-- Grants. -/
@[simp] theorem State.grantNext_frame (n : Nat) (s : State) :
    (State.grantNext n s).ptb = s.ptb ∧ (State.grantNext n s).zsv = s.zsv
    ∧ (State.grantNext n s).window = s.window ∧ (State.grantNext n s).freeIndex = s.freeIndex
    ∧ (State.grantNext n s).pending = s.pending := by
  induction n generalizing s with
  | zero => simp [State.grantNext]
  | succ n ih =>
    unfold State.grantNext
    split
    · simp
    · split
      · simp
      · split
        · simp
        · simp [ih]

/-- The grant that ends a step. -/
@[simp] theorem State.settle_frame (s : State) :
    (s.settle).ptb = s.ptb ∧ (s.settle).zsv = s.zsv ∧ (s.settle).window = s.window
    ∧ (s.settle).freeIndex = s.freeIndex ∧ (s.settle).pending = s.pending := by
  simp [State.settle]

/-- The grant after two accesses issued together. -/
@[simp] theorem State.settleTogether_frame (s : State) :
    (s.settleTogether).ptb = s.ptb ∧ (s.settleTogether).zsv = s.zsv ∧ (s.settleTogether).window = s.window
    ∧ (s.settleTogether).pending = s.pending := by
  unfold State.settleTogether; split <;> simp

/-- A refused command. -/
@[simp] theorem State.refuseCommand_frame (s : State) (c : BitVec 8) :
    (s.refuseCommand c).rqh = s.rqh ∧ (s.refuseCommand c).clb = s.clb ∧ (s.refuseCommand c).ptb = s.ptb
    ∧ (s.refuseCommand c).zsv = s.zsv ∧ (s.refuseCommand c).pse = s.pse ∧ (s.refuseCommand c).evr = s.evr
    ∧ (s.refuseCommand c).bip = s.bip ∧ (s.refuseCommand c).window = s.window
    ∧ (s.refuseCommand c).freeIndex = s.freeIndex ∧ (s.refuseCommand c).pending = s.pending := by
  simp [State.refuseCommand]

/-! ### The grant that ends a step -/

/-- Each client's waiting access passes the comparison where every waiting one does. -/
theorem State.waitsAdmitted_waiting {s : State} (h : s.waitsAdmitted = true) (c : Client) (a : Access)
    (hw : s.bip.waiting c = some a) : s.admits a = true := by
  unfold State.waitsAdmitted at h
  simp only [Bool.and_eq_true] at h
  obtain ⟨⟨⟨_, h1⟩, h2⟩, h3⟩ := h
  have e : ∀ o, s.waitAdmitted o a = true → s.admits a = true := fun o ho => by
    unfold State.waitAdmitted at ho
    rw [Bool.and_eq_true] at ho
    exact ho.2
  cases c <;> simp only [Bip.waiting] at hw
  · rw [hw] at h1; exact e _ h1
  · rw [hw] at h2; exact e _ h2
  · rw [hw] at h3; exact e _ h3

/-- The access the next grant goes to is one of those that wait. -/
theorem Bip.next_eq_some {b : Bip} {a : Access} (h : b.next = some a) :
    b.waitEng = some a ∨ ∃ c, b.waiting c = some a := by
  unfold Bip.next at h
  cases hw : b.waitEng with
  | some x => rw [hw] at h; left; simpa using h
  | none =>
    rw [hw] at h
    right
    simp only [Option.none_or] at h
    obtain ⟨c, _, hc⟩ := List.exists_of_findSome?_eq_some h
    exact ⟨c, hc⟩

/-- So does the access the next grant goes to. -/
theorem State.waitsAdmitted_next {s : State} (h : s.waitsAdmitted = true) (a : Access)
    (hn : s.bip.next = some a) : s.admits a = true := by
  rcases Bip.next_eq_some hn with hw | ⟨c, hw⟩
  · unfold State.waitsAdmitted at h
    simp only [Bool.and_eq_true] at h
    have := h.1.1.1
    rw [hw] at this
    have e : s.waitAdmitted .eng a = true := this
    unfold State.waitAdmitted at e
    rw [Bool.and_eq_true] at e
    exact e.2
  · exact State.waitsAdmitted_waiting h c a hw

/-- When the access the next grant goes to passes the comparison, the step ends with that grant, and nothing but BIP changes
(R184, R186). -/
theorem State.settle_of_next {s : State}
    (h : ∀ a, s.bip.inFlight = none → s.bip.next = some a → s.admits a = true) :
    s.settle = { s with bip := s.bip.afterGrant s.eng.wbase } := by
  unfold State.settle State.grantNext Bip.afterGrant
  cases hf : s.bip.inFlight with
  | some a => rfl
  | none =>
    dsimp only
    cases hn : s.bip.next with
    | none => rfl
    | some a =>
      dsimp only
      rw [if_pos (h a hf hn)]
      rfl

/-- The same when every waiting access passes the comparison. -/
theorem State.settle_eq {s : State} (h : s.waitsAdmitted = true) :
    s.settle = { s with bip := s.bip.afterGrant s.eng.wbase } :=
  State.settle_of_next (fun a _ hn => State.waitsAdmitted_next h a hn)

/-- With no access waiting the step ends without a grant. -/
theorem State.settle_of_none {s : State} (h : s.bip.next = none) : s.settle = s := by
  unfold State.settle State.grantNext
  rw [h]
  split <;> rfl

/-- Accesses of the control block pass the comparison where the areas are placed (R184). -/
theorem State.admits_control {s : State} (h : s.placed = true) {o : Nat} (ho : o + 4 ≤ 1088) (c : Client)
    (op : AccessOp) : s.admits ⟨.client c, o, op⟩ = true := by
  unfold State.placed at h
  unfold State.admits
  cases hl : s.eng.windowLength with
  | none => rw [hl] at h; cases h
  | some l => rw [hl] at h; simp [Config.controlBlockBytes] at h ⊢; omega

/-- An access of a client that passes the comparison may join the waiting ones (R183). -/
theorem State.issue_waitsAdmitted {s : State} (h : s.waitsAdmitted = true) (c : Client) (o : Nat) (op : AccessOp)
    (ha : s.admits ⟨.client c, o, op⟩ = true) : (s.issue c o op).waitsAdmitted = true := by
  unfold State.waitsAdmitted at h ⊢
  simp only [Bool.and_eq_true] at h ⊢
  have e : s.waitAdmitted (.client c) ⟨.client c, o, op⟩ = true := by
    unfold State.waitAdmitted
    rw [Bool.and_eq_true]
    exact ⟨by simp, ha⟩
  cases c
  · exact ⟨⟨⟨h.1.1.1, e⟩, h.1.2⟩, h.2⟩
  · exact ⟨⟨⟨h.1.1.1, h.1.1.2⟩, e⟩, h.2⟩
  · exact ⟨⟨⟨h.1.1.1, h.1.1.2⟩, h.1.2⟩, e⟩

/-- Whether the waiting accesses pass the comparison depends on BIP, WBASE and the window length alone. -/
theorem State.waitsAdmitted_congr {s t : State} (hb : t.bip = s.bip) (hw : t.eng.wbase = s.eng.wbase)
    (hl : t.eng.windowLength = s.eng.windowLength) : t.waitsAdmitted = s.waitsAdmitted := by
  have h : t.admits = s.admits := by
    funext a
    unfold State.admits
    rw [hw, hl]
  unfold State.waitsAdmitted State.waitAdmitted
  rw [hb, h]

/-- The end of the access in flight leaves the waiting ones. -/
theorem State.ended_waitsAdmitted {s t : State} (hb : t.bip = s.bip.ended) (hw : t.eng.wbase = s.eng.wbase)
    (hl : t.eng.windowLength = s.eng.windowLength) : t.waitsAdmitted = s.waitsAdmitted := by
  have h : t.admits = s.admits := by
    funext a
    unfold State.admits
    rw [hw, hl]
  unfold State.waitsAdmitted State.waitAdmitted
  rw [hb, h]
  rfl

/-- A property that grants and failures keep is kept by the grant that ends a step. -/
theorem State.grantNext_keeps {P : State → Prop} (n : Nat) (s : State) (hs : P s)
    (grant : ∀ s a, s.bip.inFlight = none → s.bip.next = some a → P s → P (s.grant a))
    (fail : ∀ s a, s.bip.inFlight = none → s.bip.next = some a → P s →
      P ({ s with bip := s.bip.unwait a }.accessFailed .busError a)) : P (State.grantNext n s) := by
  induction n generalizing s with
  | zero => exact hs
  | succ n ih =>
    unfold State.grantNext
    split
    · exact hs
    · rename_i hf
      split
      · exact hs
      · rename_i a hn
        split
        · exact grant s a hf hn hs
        · exact ih _ (fail s a hf hn hs)

/-- A property that BIP does not enter and that failures keep is kept by the grant that ends a step. -/
theorem State.settle_keeps {P : State → Prop} {s : State} (hs : P s)
    (bus : ∀ s b, P s → P { s with bip := b }) (fail : ∀ s k a, P s → P (s.accessFailed k a)) : P s.settle :=
  State.grantNext_keeps 5 s hs (fun s _ _ _ h => bus s _ h) (fun s a _ _ h => fail _ _ a (bus s _ h))

/-- The same after two accesses issued together. -/
theorem State.settleTogether_keeps {P : State → Prop} {s : State} (hs : P s)
    (bus : ∀ s b m n, P s → P { s with bip := b, window := m, freeIndex := n })
    (fail : ∀ s k a, P s → P (s.accessFailed k a)) : P s.settleTogether := by
  unfold State.settleTogether
  split
  · exact State.settle_keeps (bus s _ s.window _ hs) (fun s b h => bus s b s.window s.freeIndex h) fail
  · exact State.settle_keeps hs (fun s b h => bus s b s.window s.freeIndex h) fail

/-! ### Answers -/

/-- A completed access changes the window alone. -/
theorem State.completedAccess_eq (s : State) (a : Access) :
    s.completedAccess a = { s with window := (s.completedAccess a).window } := by
  unfold State.completedAccess
  cases a.op.written <;> rfl

/-- A property that BIP, the window and the free values do not enter is kept by a read's answer, when failures and the
client's next work keep it. -/
theorem State.onRead_keeps {P : State → Prop} {s : State} (o : Owner) (ans : ReadAnswer) (k : State → Word → State)
    (hs : P s) (bus : ∀ s b m n, P s → P { s with bip := b, window := m, freeIndex := n })
    (fail : ∀ s k a, P s → P (s.accessFailed k a))
    (next : ∀ b m w, P { s with bip := b, window := m } → P (k { s with bip := b, window := m } w)) :
    P (s.onRead o ans k) := by
  unfold State.onRead
  split
  · exact hs
  · split
    · exact State.settle_keeps (next _ _ _ (bus s _ _ s.freeIndex hs)) (fun s b h => bus s b s.window s.freeIndex h) fail
    · refine State.settle_keeps (fail _ _ _ ?_) (fun s b h => bus s b s.window s.freeIndex h) fail
      rw [State.failedAccess_eq]
      exact bus s _ _ _ hs

/-- The same for a write's answer. -/
theorem State.onWrite_keeps {P : State → Prop} {s : State} (o : Owner) (ans : WriteAnswer) (k : State → State)
    (hs : P s) (bus : ∀ s b m n, P s → P { s with bip := b, window := m, freeIndex := n })
    (fail : ∀ s k a, P s → P (s.accessFailed k a))
    (next : ∀ b m, P { s with bip := b, window := m } → P (k { s with bip := b, window := m })) :
    P (s.onWrite o ans k) := by
  unfold State.onWrite
  split
  · exact hs
  · split
    · refine State.settle_keeps ?_ (fun s b h => bus s b s.window s.freeIndex h) fail
      rw [State.completedAccess_eq]
      exact next _ _ (bus s _ _ s.freeIndex hs)
    · refine State.settle_keeps (fail _ _ _ ?_) (fun s b h => bus s b s.window s.freeIndex h) fail
      rw [State.failedAccess_eq]
      exact bus s _ _ _ hs

/-- The same for a timeout. -/
theorem State.timeout_keeps {P : State → Prop} {s : State} (hs : P s)
    (bus : ∀ s b m n, P s → P { s with bip := b, window := m, freeIndex := n })
    (fail : ∀ s k a, P s → P (s.accessFailed k a)) : P s.timeout := by
  unfold State.timeout
  split
  · exact hs
  · have h : ∀ a, P (s.endInFlight.failedAccess a) := fun a => by
      rw [State.failedAccess_eq]; exact bus s _ _ _ hs
    split
    · exact State.settle_keeps (h _) (fun s b h => bus s b s.window s.freeIndex h) fail
    · exact State.settle_keeps (fail _ _ _ (h _)) (fun s b h => bus s b s.window s.freeIndex h) fail

/-- The same for the end of a disregarded access. -/
theorem State.disregardedEnd_keeps {P : State → Prop} {s : State} (how : DisregardedEnd) (hs : P s)
    (bus : ∀ s b m n, P s → P { s with bip := b, window := m, freeIndex := n })
    (fail : ∀ s k a, P s → P (s.accessFailed k a)) : P (s.disregardedEnd how) := by
  unfold State.disregardedEnd
  split
  · exact hs
  · have h : ∀ a, P (s.endInFlight.failedAccess a) := fun a => by
      rw [State.failedAccess_eq]; exact bus s _ _ _ hs
    split
    · split
      · refine State.settle_keeps ?_ (fun s b h => bus s b s.window s.freeIndex h) fail
        rw [State.completedAccess_eq]; exact bus s _ _ s.freeIndex hs
      · exact State.settle_keeps (h _) (fun s b h => bus s b s.window s.freeIndex h) fail
      · exact State.settle_keeps (h _) (fun s b h => bus s b s.window s.freeIndex h) fail
    · exact hs

/-! ### The window -/

/-- What an access that ends can leave in the window: itself, or a word written at the access's place. -/
def Memory.sameOutside (m m' : Memory) (low : Nat) : Prop :=
  m' = m ∨ ∃ w, m' = Memory.writeWord m low w

theorem State.failedAccess_sameOutside (s : State) (a : Access) :
    Memory.sameOutside s.window (s.failedAccess a).window (s.busAddress a.offset) := by
  rcases State.failedAccess_window s a with h | ⟨w, _, h⟩
  · exact .inl h
  · exact .inr ⟨w, h⟩

theorem State.completedAccess_sameOutside (s : State) (a : Access) :
    Memory.sameOutside s.window (s.completedAccess a).window (s.busAddress a.offset) := by
  rw [State.completedAccess_window]
  cases a.op.written with
  | none => exact .inl rfl
  | some w => exact .inr ⟨w, rfl⟩

/-- An awaited read leaves the window but for the word read, where the client's next work does. -/
theorem State.onRead_window (s : State) (o : Owner) (ans : ReadAnswer) (k : State → Word → State)
    (hk : ∀ s w, (k s w).window = s.window) :
    (s.onRead o ans k).window = s.window
    ∨ ∃ a, s.bip.inFlight = some a
        ∧ Memory.sameOutside s.window (s.onRead o ans k).window (s.busAddress a.offset) := by
  unfold State.onRead
  cases h : s.awaited o with
  | none => exact .inl rfl
  | some a =>
    refine .inr ⟨a, (State.awaited_eq_some.mp h).1, ?_⟩
    cases ans with
    | word w => right; exact ⟨w, by simp [hk, State.busAddress]⟩
    | error =>
      have := State.failedAccess_sameOutside s.endInFlight a
      simpa [State.busAddress] using this

/-- An awaited write leaves the window but for its word, where the client's next work does. -/
theorem State.onWrite_window (s : State) (o : Owner) (ans : WriteAnswer) (k : State → State)
    (hk : ∀ s, (k s).window = s.window) :
    (s.onWrite o ans k).window = s.window
    ∨ ∃ a, s.bip.inFlight = some a
        ∧ Memory.sameOutside s.window (s.onWrite o ans k).window (s.busAddress a.offset) := by
  unfold State.onWrite
  cases h : s.awaited o with
  | none => exact .inl rfl
  | some a =>
    refine .inr ⟨a, (State.awaited_eq_some.mp h).1, ?_⟩
    cases ans with
    | done =>
      have := State.completedAccess_sameOutside s.endInFlight a
      simpa [State.busAddress, hk] using this
    | error =>
      have := State.failedAccess_sameOutside s.endInFlight a
      simpa [State.busAddress] using this

/-- A timeout leaves the window but for the word of a write that was in flight. -/
theorem State.timeout_window (s : State) :
    s.timeout.window = s.window
    ∨ ∃ a, s.bip.inFlight = some a ∧ Memory.sameOutside s.window s.timeout.window (s.busAddress a.offset) := by
  unfold State.timeout
  cases h : s.bip.inFlight with
  | none => exact .inl rfl
  | some a =>
    refine .inr ⟨a, rfl, ?_⟩
    have := State.failedAccess_sameOutside s.endInFlight a
    dsimp only
    split <;> simpa [State.busAddress] using this

/-- So does the end of a disregarded access. -/
theorem State.disregardedEnd_window (s : State) (how : DisregardedEnd) :
    (s.disregardedEnd how).window = s.window
    ∨ ∃ a, s.bip.inFlight = some a
        ∧ Memory.sameOutside s.window (s.disregardedEnd how).window (s.busAddress a.offset) := by
  unfold State.disregardedEnd
  cases h : s.bip.inFlight with
  | none => exact .inl rfl
  | some a =>
    refine .inr ⟨a, rfl, ?_⟩
    have h1 := State.failedAccess_sameOutside s.endInFlight a
    have h2 := State.completedAccess_sameOutside s.endInFlight a
    dsimp only
    split
    · cases how
      · simpa [State.busAddress] using h2
      · simpa [State.busAddress] using h1
      · simpa [State.busAddress] using h1
    · exact .inl rfl

end Sys2Proof.Machine
end

