-- ==== Sys2Proof/Laws/Grants.lean ====
section
/-! SUPPORT. With the areas placed, every access that the recorder, the request handler at an end of pass, and the pass engine
issue passes BIP's comparison (R184); and what an event or an edit does depends on few of the state's parts. -/
namespace Sys2Proof.Machine

/-- Every waiting access passes the comparison, and the areas lie inside the window. -/
def State.ready (s : State) : Prop := s.waitsAdmitted = true ∧ s.placed = true

/-- Whether the areas are placed depends on the window length and the configuration alone. -/
theorem State.placed_congr {s t : State} (hl : t.eng.windowLength = s.eng.windowLength)
    (hc : t.eng.config = s.eng.config) : t.placed = s.placed := by
  unfold State.placed
  rw [hl, hc]

/-- A state with the same BIP, WBASE, window length and configuration is as ready. -/
theorem State.ready_congr {s t : State} (h : s.ready) (hb : t.bip = s.bip) (hw : t.eng.wbase = s.eng.wbase)
    (hl : t.eng.windowLength = s.eng.windowLength) (hc : t.eng.config = s.eng.config) : t.ready :=
  ⟨by rw [State.waitsAdmitted_congr hb hw hl]; exact h.1, by rw [State.placed_congr hl hc]; exact h.2⟩

/-- An access that passes the comparison keeps a state ready. -/
theorem State.issue_ready {s : State} (h : s.ready) (c : Client) (o : Nat) (op : AccessOp)
    (ha : s.admits ⟨.client c, o, op⟩ = true) : (s.issue c o op).ready :=
  ⟨State.issue_waitsAdmitted h.1 c o op ha, (State.placed_congr (s := s) rfl rfl).trans h.2⟩

/-- An access of the control block keeps a state ready. -/
theorem State.issue_control {s : State} (h : s.ready) (c : Client) (o : Nat) (op : AccessOp) (ho : o + 4 ≤ 1088) :
    (s.issue c o op).ready :=
  State.issue_ready h c o op (State.admits_control h.2 ho c op)

/-- The end of an access keeps a state ready. -/
theorem State.ended_ready {s t : State} (h : s.ready) (hb : t.bip = s.bip.ended) (he : t.eng = s.eng) : t.ready :=
  ⟨by rw [State.ended_waitsAdmitted hb (by rw [he]) (by rw [he])]; exact h.1,
    (State.placed_congr (s := s) (by rw [he]) (by rw [he])).trans h.2⟩

/-- The offsets of a slot's words lie in the control block. -/
theorem slotOffset_control (b : Fin 16) (j : Nat) (hj : j < 16) : slotOffset b j + 4 ≤ 1088 := by
  have := b.isLt
  unfold slotOffset
  omega

/-- An area of the stored configuration lies inside the window. -/
theorem State.placed_config {s : State} (h : s.placed = true) {c : Configuration} (hc : s.eng.config = some c) :
    ∃ l, s.eng.windowLength = some l ∧ c.inputOffset + 4 * c.inputCount ≤ l ∧ c.bankOffset + 6192 ≤ l
      ∧ c.stripOffset + 16 * c.stripCapacity ≤ l ∧ 0 < c.stripCapacity ∧ 1088 ≤ l := by
  unfold State.placed at h
  cases hl : s.eng.windowLength with
  | none => rw [hl] at h; cases h
  | some l =>
    rw [hl, hc] at h
    simp [Configuration.fits, Config.controlBlockBytes, Config.bankAreaBytes] at h
    exact ⟨l, rfl, h.2.1.1.1, h.2.1.1.2, h.2.1.2, h.2.2, h.1⟩

/-- A client's access that ends inside the window passes the comparison. -/
theorem State.admits_of_le {s : State} {l : Nat} (hl : s.eng.windowLength = some l) (c : Client) (o : Nat)
    (op : AccessOp) (ho : o + 4 ≤ l) : s.admits ⟨.client c, o, op⟩ = true := by
  unfold State.admits
  rw [hl]
  simpa using ho

/-- A bank word's access passes the comparison. -/
theorem State.admits_bank {s : State} (h : s.placed = true) {c : Configuration} (hc : s.eng.config = some c)
    (b : Fin 3) (j : Nat) (hj : j < 516) (op : AccessOp) : s.admits ⟨.client .pse, c.bankWord b j, op⟩ = true := by
  obtain ⟨l, hl, _, h2, _⟩ := State.placed_config h hc
  have := b.isLt
  refine State.admits_of_le hl _ _ _ ?_
  unfold Configuration.bankWord Config.bankBytes
  omega

/-- A record write's access passes the comparison. -/
theorem State.admits_record {s : State} (h : s.placed = true) {c : Configuration} (hc : s.eng.config = some c)
    (q : Word) (e : Event) (k : Fin 5) (op : AccessOp) :
    s.admits ⟨.client .evr, (recordWrite c q e k).1, op⟩ = true := by
  obtain ⟨l, hl, _, _, h3, h4, h5⟩ := State.placed_config h hc
  refine State.admits_of_le hl _ _ _ ?_
  have := Nat.mod_lt (q.toNat - 1) h4
  unfold recordWrite Configuration.recordWord highWaterOffset
  split <;> dsimp only <;> omega

/-! ### The recorder -/

theorem State.recordStep_ready {s : State} (h : s.ready) {c : Configuration} (hc : s.eng.config = some c) (q : Word)
    (e : Event) (k : Fin 5) (b : Option Event) : (s.recordStep c q e k b).ready :=
  State.issue_ready (State.ready_congr h rfl rfl rfl rfl) .evr _ _ (State.admits_record h.2 hc q e k _)

theorem State.readAck_ready {s : State} (h : s.ready) (l : Bool) (e : Event) : (s.readAck l e).ready :=
  State.issue_control (State.ready_congr h rfl rfl rfl rfl) .evr _ _ (by decide)

theorem State.startOwn_ready {s : State} (h : s.ready) {c : Configuration} (hc : s.eng.config = some c) (e : Event) :
    (s.startOwn c e).ready := by
  unfold State.startOwn
  split
  · exact State.recordStep_ready h hc _ _ _ _
  · exact State.readAck_ready h _ _

theorem State.startEvent_ready {s : State} (h : s.ready) {c : Configuration} (hc : s.eng.config = some c)
    (e : Event) : (s.startEvent c e).ready := by
  unfold State.startEvent
  split
  · exact State.startOwn_ready h hc e
  · split
    · exact State.recordStep_ready h hc _ _ _ _
    · exact State.readAck_ready h _ _

theorem State.takeEvents_ready {c : Configuration} (es : List Event) {s : State} (h : s.ready)
    (hc : s.eng.config = some c) : (State.takeEvents c es s).ready := by
  induction es generalizing s with
  | nil => exact State.ready_congr h rfl rfl rfl rfl
  | cons e es ih =>
    unfold State.takeEvents
    split
    · exact ih (s := { s with evr := s.evr.drop }) (State.ready_congr h rfl rfl rfl rfl) hc
    · exact State.startEvent_ready (s := { s with evr := { s.evr with queue := es } })
        (State.ready_congr h rfl rfl rfl rfl) hc e

theorem State.nextEvent_ready {s : State} (h : s.ready) : s.nextEvent.ready := by
  unfold State.nextEvent
  split
  · exact State.ready_congr h rfl rfl rfl rfl
  · rename_i c hc
    exact State.takeEvents_ready _ h hc

theorem State.hand_ready {s : State} (h : s.ready) (e : Event) : (s.hand e).ready := by
  unfold State.hand
  split
  · exact h
  · rename_i c hc
    split
    · exact State.ready_congr h rfl rfl rfl rfl
    · dsimp only
      split
      · exact State.takeEvents_ready (s := { s with evr := { s.evr with queue := s.evr.queue ++ [e] } }) _
          (State.ready_congr h rfl rfl rfl rfl) hc
      · exact State.ready_congr h rfl rfl rfl rfl
      · exact State.ready_congr h rfl rfl rfl rfl

theorem State.handAll_ready {s : State} (h : s.ready) (es : List Event) : (s.handAll es).ready := by
  unfold State.handAll
  induction es generalizing s with
  | nil => exact h
  | cons e es ih => exact ih (State.hand_ready h e)

theorem State.handTogether_ready {s : State} (h : s.ready) (p : Option Event) (es : List Event) :
    (s.handTogether p es).ready := by
  unfold State.handTogether
  split
  · exact State.handAll_ready h _
  · exact State.hand_ready h _
  · exact State.handAll_ready (s := { s with freeIndex := s.freeIndex + 1 }) (State.ready_congr h rfl rfl rfl rfl) _

/-- Handing depends on the configuration, the pass number and EVR alone. -/
theorem State.takeEvents_evr_congr (c : Configuration) (es : List Event) {s t : State} (he : s.evr = t.evr)
    (hp : s.pse.passNumber = t.pse.passNumber) :
    (State.takeEvents c es s).evr = (State.takeEvents c es t).evr := by
  induction es generalizing s t with
  | nil => simp [State.takeEvents, he]
  | cons e es ih =>
    unfold State.takeEvents
    rw [he]
    split
    · exact ih rfl hp
    · simp only [State.startEvent, State.startOwn, State.beginRecord, State.beginLost, State.lostEvent,
        State.recordStep, State.readAck, hp]
      split
      · split <;> rfl
      · split <;> rfl

theorem State.hand_evr_congr {s t : State} (e : Event) (hc : s.eng.config = t.eng.config) (he : s.evr = t.evr)
    (hp : s.pse.passNumber = t.pse.passNumber) : (s.hand e).evr = (t.hand e).evr := by
  unfold State.hand
  rw [hc, he]
  split
  · exact he
  · split
    · rfl
    · dsimp only
      split
      · exact State.takeEvents_evr_congr _ _ rfl hp
      · rfl
      · rfl

theorem State.handAll_evr_congr {s t : State} (es : List Event) (hc : s.eng.config = t.eng.config)
    (he : s.evr = t.evr) (hp : s.pse.passNumber = t.pse.passNumber) : (s.handAll es).evr = (t.handAll es).evr := by
  unfold State.handAll
  induction es generalizing s t with
  | nil => exact he
  | cons e es ih => exact ih (by simpa using hc) (State.hand_evr_congr e hc he hp) (by simpa using hp)

/-- So does what it issues: BIP after it depends on these and on BIP before. -/
theorem State.takeEvents_bip_congr (c : Configuration) (es : List Event) {s t : State} (he : s.evr = t.evr)
    (hp : s.pse.passNumber = t.pse.passNumber) (hb : s.bip = t.bip) :
    (State.takeEvents c es s).bip = (State.takeEvents c es t).bip := by
  induction es generalizing s t with
  | nil => simp [State.takeEvents, hb]
  | cons e es ih =>
    unfold State.takeEvents
    rw [he]
    split
    · exact ih rfl hp hb
    · simp only [State.startEvent, State.startOwn, State.beginRecord, State.beginLost, State.lostEvent,
        State.recordStep, State.readAck, State.issue, hp, hb]
      split
      · split <;> rfl
      · split <;> rfl

theorem State.hand_bip_congr {s t : State} (e : Event) (hc : s.eng.config = t.eng.config) (he : s.evr = t.evr)
    (hp : s.pse.passNumber = t.pse.passNumber) (hb : s.bip = t.bip) : (s.hand e).bip = (t.hand e).bip := by
  unfold State.hand
  rw [hc, he]
  split
  · exact hb
  · split
    · exact hb
    · dsimp only
      split
      · exact State.takeEvents_bip_congr _ _ rfl hp hb
      · exact hb
      · exact hb

theorem State.handAll_bip_congr {s t : State} (es : List Event) (hc : s.eng.config = t.eng.config)
    (he : s.evr = t.evr) (hp : s.pse.passNumber = t.pse.passNumber) (hb : s.bip = t.bip) :
    (s.handAll es).bip = (t.handAll es).bip := by
  unfold State.handAll
  induction es generalizing s t with
  | nil => exact hb
  | cons e es ih =>
    exact ih (by simpa using hc) (State.hand_evr_congr e hc he hp) (by simpa using hp) (State.hand_bip_congr e hc he hp hb)

/-! ### Edits and the end of a pass -/

/-- An apply step depends on the tables and the pass number alone: the tables it leaves, its events and its result words. -/
theorem State.applyEdit_congr {s t : State} (e : Edit) (h1 : s.clb = t.clb) (h2 : s.ptb = t.ptb) (h3 : s.zsv = t.zsv)
    (h4 : s.pse.passNumber = t.pse.passNumber) :
    (s.applyEdit e).state.clb = (t.applyEdit e).state.clb ∧ (s.applyEdit e).state.ptb = (t.applyEdit e).state.ptb
    ∧ (s.applyEdit e).state.zsv = (t.applyEdit e).state.zsv ∧ (s.applyEdit e).events = (t.applyEdit e).events
    ∧ (s.applyEdit e).words = (t.applyEdit e).words := by
  cases e with
  | install c =>
    unfold State.applyEdit State.applyInstall
    rcases hb : t.clb.building with _ | b
    · simp [h1, h2, h3, hb]
    · rcases hd : b.body with _ | d <;> simp [h1, h2, h3, h4, hb, hd]
  | delete c => simp [State.applyEdit, State.applyDelete, h1, h2, h3]
  | setZones z v => simp [State.applyEdit, State.applySetZones, State.moveZones, h1, h2, h3, h4]
  | setPoint i d => simp [State.applyEdit, State.applySetPoint, h1, h2, h3, h4]
  | clearPoint i => simp [State.applyEdit, State.applyClearPoint, h1, h2, h3, h4]
  | ackZone k =>
    have hn : s.ackNamed k = t.ackNamed k := by funext i; unfold State.ackNamed; rw [h2]
    simp [State.applyEdit, State.applyAckZone, State.moveZones, hn, h1, h2, h3, h4]

theorem State.scanOccasion_ready {s : State} (h : s.ready) : s.scanOccasion.ready := by
  unfold State.scanOccasion
  split
  · exact State.ready_congr h rfl rfl rfl rfl
  · exact State.issue_control (State.ready_congr h rfl rfl rfl rfl) .rqh _ _ (by decide)

theorem State.finish_ready {s : State} (h : s.ready) (r : Held) (c : ResultCode) (ws : List Word) :
    (s.finish r c ws).ready :=
  State.issue_control (State.ready_congr h rfl rfl rfl rfl) .rqh _ _ (slotOffset_control _ _ (by decide))

theorem State.takeEdit_ready {s : State} (h : s.ready) (r : Held) (e : Edit) : (s.takeEdit r e).1.ready := by
  unfold State.takeEdit
  exact State.finish_ready (State.ready_congr h (by simp) (by simp) (by simp) (by simp)) _ _ _

theorem State.applyNow_ready {s : State} (h : s.ready) (r : Held) (e : Edit) : (s.applyNow r e).ready :=
  State.handAll_ready (State.takeEdit_ready h r e) _

theorem State.boundaryApply_ready {s : State} (h : s.ready) (n : Bool) : (s.boundaryApply n).1.ready := by
  unfold State.boundaryApply
  split
  · exact h
  · split
    · split
      · exact State.takeEdit_ready h _ _
      · exact State.ready_congr h rfl rfl rfl rfl
    all_goals exact h

theorem State.beginPass_ready {s : State} (h : s.ready) : s.beginPass.ready :=
  State.issue_control (State.ready_congr h rfl rfl rfl rfl) .pse _ _ (by decide)

theorem State.afterPass_ready {s : State} (h : s.ready) (b : Bool) : (s.afterPass b).ready := by
  unfold State.afterPass
  split
  · exact State.ready_congr h rfl rfl rfl rfl
  · split
    · exact State.beginPass_ready (s := { s with pse := { s.pse with pendingTrigger := false } })
        (State.ready_congr h rfl rfl rfl rfl)
    · exact h

theorem State.endPass_ready {s : State} (h : s.ready) (l : Bool) (e : Option Event) : (s.endPass l e).ready := by
  have h1 : ({ s with pse := { s.pse with pass := none } } : State).scanOccasion.ready :=
    State.scanOccasion_ready (State.ready_congr h rfl rfl rfl rfl)
  unfold State.endPass
  dsimp only
  exact State.afterPass_ready (State.handTogether_ready (State.boundaryApply_ready h1 _) _ _) _

/-! ### The end of a pass, block by block (R107) -/

/-- Steps 4 and 5 on PSE and ENG. -/
theorem State.afterPass_spec (s : State) (halt : Bool) :
    (s.afterPass halt).eng = (if halt then { s.eng with engine := .idle } else s.eng)
    ∧ (s.afterPass halt).pse = { s.pse with
        pendingTrigger := false
        pass := if halt = false ∧ s.pse.pendingTrigger = true then some .startStamp else s.pse.pass
        inputChanged := if halt = false ∧ s.pse.pendingTrigger = true then false else s.pse.inputChanged
        timer := if halt then none else s.pse.timer } := by
  unfold State.afterPass
  cases halt with
  | true => exact ⟨rfl, by simp⟩
  | false =>
    cases hp : s.pse.pendingTrigger with
    | true => exact ⟨rfl, rfl⟩
    | false =>
      refine ⟨rfl, ?_⟩
      simp only [Bool.false_eq_true, if_false, and_false]
      rw [← hp]

/-- The end of a pass on ENG and PSE. -/
theorem State.endPass_spec (s : State) (last : Bool) (e : Option Event) :
    let halt := s.eng.engine == .stopping || last
    (s.endPass last e).eng = (if halt then { s.eng with engine := .idle } else s.eng)
    ∧ (s.endPass last e).pse = { s.pse with
        pendingTrigger := false
        pass := if halt = false ∧ s.pse.pendingTrigger = true then some .startStamp else none
        inputChanged := if halt = false ∧ s.pse.pendingTrigger = true then false else s.pse.inputChanged
        timer := if halt then none else s.pse.timer } := by
  intro halt
  have h := State.afterPass_spec (((({ s with pse := { s.pse with pass := none } } : State).scanOccasion.boundaryApply
    (({ s with pse := { s.pse with pass := none } } : State).scanOccasion.pse.pendingTrigger || halt)).1).handTogether e
    (({ s with pse := { s.pse with pass := none } } : State).scanOccasion.boundaryApply
    (({ s with pse := { s.pse with pass := none } } : State).scanOccasion.pse.pendingTrigger || halt)).2) halt
  refine ⟨h.1.trans ?_, h.2.trans ?_⟩
  · simp
  · simp

/-- The end of a pass on RQH and the tables when no edit waits. -/
theorem State.endPass_noEdit (s : State) (last : Bool) (e : Option Event) (h : s.rqh.waitingEdit = none) :
    (s.endPass last e).clb = s.clb ∧ (s.endPass last e).ptb = s.ptb ∧ (s.endPass last e).zsv = s.zsv
    ∧ (s.endPass last e).rqh = s.scanOccasion.rqh
    ∧ (s.endPass last e).evr = (match e with | none => s.evr | some e => (s.hand e).evr) := by
  have hb : ∀ n, ({ s with pse := { s.pse with pass := none } } : State).scanOccasion.boundaryApply n
      = (({ s with pse := { s.pse with pass := none } } : State).scanOccasion, []) := by
    intro n
    have hh : ({ s with pse := { s.pse with pass := none } } : State).scanOccasion.rqh.held = s.rqh.held := by
      unfold State.scanOccasion; split <;> rfl
    unfold State.boundaryApply
    rw [hh]
    cases hq : s.rqh.held with
    | none => rfl
    | some q =>
      obtain ⟨q1, q2, q3, q4, q5⟩ := q
      cases q5 with
      | awaitApply x y => unfold Rqh.waitingEdit at h; rw [hq] at h; cases h
      | _ => rfl
  unfold State.endPass
  simp only [hb]
  have hr : ({ s with pse := { s.pse with pass := none } } : State).scanOccasion.rqh = s.scanOccasion.rqh := by
    unfold State.scanOccasion; split <;> rfl
  refine ⟨by simp, by simp, by simp, by simp [hr], ?_⟩
  cases e with
  | none => simp [State.handTogether, State.handAll]
  | some e =>
    simp only [State.afterPass_frame, State.handTogether]
    exact State.hand_evr_congr e (by simp) (by simp) (by simp)

/-- A waiting edit at an end of pass that takes it. -/
theorem State.boundaryApply_taken {s : State} {q : Held} {x : Edit} {r : Bool} (hq : s.rqh.held = some q)
    (hs : q.stage = .awaitApply x r) : s.boundaryApply true = s.takeEdit q x := by
  unfold State.boundaryApply
  rw [hq]
  dsimp only
  rw [hs]
  rfl

/-- A waiting edit at an end of pass that releases it. -/
theorem State.boundaryApply_released {s : State} {q : Held} {x : Edit} {r : Bool} (hq : s.rqh.held = some q)
    (hs : q.stage = .awaitApply x r) :
    s.boundaryApply false
      = ({ s with rqh := { s.rqh with held := some { q with stage := .awaitApply x true } } }, []) := by
  unfold State.boundaryApply
  rw [hq]
  dsimp only
  rw [hs]
  rfl

/-- The end of a pass on RQH and the tables when an edit waits: taken, or released. -/
theorem State.endPass_edit (s : State) (last : Bool) (e : Option Event) (q : Held) (x : Edit) (r : Bool)
    (hq : s.rqh.held = some q) (hs : q.stage = .awaitApply x r) :
    ((s.pse.pendingTrigger || (s.eng.engine == .stopping || last)) = true →
      (s.endPass last e).clb = (s.applyEdit x).state.clb ∧ (s.endPass last e).ptb = (s.applyEdit x).state.ptb
      ∧ (s.endPass last e).zsv = (s.applyEdit x).state.zsv
      ∧ (s.endPass last e).rqh = { s.rqh with
          scanRequested := true, effectTaken := true
          held := some { q with stage := .finishing .ok (resultWords (s.applyEdit x).words) 0 } })
    ∧ ((s.pse.pendingTrigger || (s.eng.engine == .stopping || last)) = false →
      (s.endPass last e).clb = s.clb ∧ (s.endPass last e).ptb = s.ptb ∧ (s.endPass last e).zsv = s.zsv
      ∧ (s.endPass last e).rqh = { s.rqh with
          scanRequested := true, held := some { q with stage := .awaitApply x true } }) := by
  obtain ⟨s1, h1⟩ : ∃ s1 : State,
      s1 = { s with pse := { s.pse with pass := none }, rqh := { s.rqh with scanRequested := true } } := ⟨_, rfl⟩
  have hsc : ({ s with pse := { s.pse with pass := none } } : State).scanOccasion = s1 := by
    rw [h1]
    unfold State.scanOccasion
    rw [if_pos (by unfold Rqh.busy; dsimp only; rw [hq]; rfl)]
  have hq1 : s1.rqh.held = some q := by rw [h1]; exact hq
  have hr : s1.rqh = { s.rqh with scanRequested := true } := by rw [h1]
  have hp : s1.pse.pendingTrigger = s.pse.pendingTrigger := by rw [h1]
  have ht : s1.clb = s.clb ∧ s1.ptb = s.ptb ∧ s1.zsv = s.zsv := by rw [h1]; exact ⟨rfl, rfl, rfl⟩
  have hc := State.applyEdit_congr (s := s1) (t := s) x ht.1 ht.2.1 ht.2.2 (by rw [h1])
  constructor
  · intro hn
    unfold State.endPass
    dsimp only
    rw [hsc, hp, hn, State.boundaryApply_taken hq1 hs]
    refine ⟨by simp [hc.1], by simp [hc.2.1], by simp [hc.2.2.1], ?_⟩
    simp [State.takeEdit, State.finish, State.finishStep, hc.2.2.2.2, hr]
  · intro hn
    unfold State.endPass
    dsimp only
    rw [hsc, hp, hn, State.boundaryApply_released hq1 hs]
    refine ⟨by simp [ht.1], by simp [ht.2.1], by simp [ht.2.2], by simp [hr]⟩

end Sys2Proof.Machine
end

