-- ==== Sys2Proof/Laws/Answers.lean ====
section
/-! SUPPORT. The shapes of an answer: what is left of `onRead` and `onWrite` once the access is known, and the grant after it. -/
namespace Sys2Proof.Machine

/-- The state in which a client takes the answer to its access, with the window as the access leaves it. -/
def State.answered (s : State) (m : Memory) : State := { s with window := m, bip := s.bip.ended }

/-- A read answered with a word. -/
theorem State.onRead_word {s : State} {o : Owner} {a : Access} (h : s.awaited o = some a) (k : State → Word → State)
    (w : Word) :
    s.onRead o (.word w) k = (k (s.answered (Memory.writeWord s.window (s.busAddress a.offset) w)) w).settle := by
  unfold State.onRead; rw [h]; rfl

/-- A write answered. -/
theorem State.onWrite_done {s : State} {o : Owner} {a : Access} {w : Word} (h : s.awaited o = some a)
    (hw : a.op.written = some w) (k : State → State) :
    s.onWrite o .done k = (k (s.answered (Memory.writeWord s.window (s.busAddress a.offset) w))).settle := by
  unfold State.onWrite; rw [h]; dsimp only; unfold State.completedAccess; rw [hw]; rfl

/-- A read answered with an error. -/
theorem State.onRead_error {s : State} {o : Owner} {a : Access} (h : s.awaited o = some a) (k : State → Word → State) :
    s.onRead o .error k = ((s.endInFlight.failedAccess a).accessFailed .busError a).settle := by
  unfold State.onRead; rw [h]

/-- A write answered with an error. -/
theorem State.onWrite_error {s : State} {o : Owner} {a : Access} (h : s.awaited o = some a) (k : State → State) :
    s.onWrite o .error k = ((s.endInFlight.failedAccess a).accessFailed .busError a).settle := by
  unfold State.onWrite; rw [h]

/-- An answer to a read that nobody awaits changes nothing (R185). -/
theorem State.onRead_none {s : State} {o : Owner} {answer : ReadAnswer} {k : State → Word → State} (h : s.awaited o = none) :
    s.onRead o answer k = s := by
  unfold State.onRead; rw [h]

/-- An answer to a write that nobody awaits changes nothing. -/
theorem State.onWrite_none {s : State} {o : Owner} {answer : WriteAnswer} {k : State → State} (h : s.awaited o = none) :
    s.onWrite o answer k = s := by
  unfold State.onWrite; rw [h]

/-- The premises of a grant stand when the answer is taken. -/
theorem State.answered_ready {s : State} (h1 : s.waitsAdmitted = true) (h2 : s.placed = true) (m : Memory) :
    (s.answered m).ready := State.ended_ready ⟨h1, h2⟩ rfl rfl

/-- The grant that ends a step when every waiting access passes the comparison. -/
theorem State.settle_ready {s : State} (h : s.ready) : s.settle = { s with bip := s.bip.afterGrant s.eng.wbase } :=
  State.settle_eq h.1

/-- The grant after a client has issued an access that passes the comparison. -/
theorem State.settle_issue {u : State} (c : Client) (o : Nat) (op : AccessOp) (h : u.ready)
    (ha : u.admits ⟨.client c, o, op⟩ = true) :
    (u.issue c o op).settle
      = { u with bip := (u.bip.setWaiting c (some ⟨.client c, o, op⟩)).afterGrant u.eng.wbase } :=
  State.settle_ready (State.issue_ready h c o op ha)

/-- The same for an access of the control block. -/
theorem State.settle_control {u : State} (c : Client) (o : Nat) (op : AccessOp) (h : u.ready) (ho : o + 4 ≤ 1088) :
    (u.issue c o op).settle
      = { u with bip := (u.bip.setWaiting c (some ⟨.client c, o, op⟩)).afterGrant u.eng.wbase } :=
  State.settle_issue c o op h (State.admits_control h.2 ho c op)

/-! ### What the recorder does to BIP, and an edit that reaches its apply step -/

/-- Taking events changes no waiting access but EVR's. -/
theorem State.takeEvents_bip (c : Configuration) (es : List Event) (s : State) :
    ∃ w, (State.takeEvents c es s).bip = { s.bip with waitEvr := w } := by
  induction es generalizing s with
  | nil => exact ⟨_, rfl⟩
  | cons e es ih =>
    unfold State.takeEvents
    split
    · exact ih { s with evr := s.evr.drop }
    · unfold State.startEvent State.startOwn
      split
      · split <;> exact ⟨_, rfl⟩
      · split <;> exact ⟨_, rfl⟩

/-- Handing an event changes no waiting access but EVR's. -/
theorem State.hand_bip (s : State) (e : Event) : ∃ w, (s.hand e).bip = { s.bip with waitEvr := w } := by
  unfold State.hand
  split
  · exact ⟨_, rfl⟩
  · split
    · exact ⟨_, rfl⟩
    · dsimp only
      split
      · exact State.takeEvents_bip _ _ { s with evr := { s.evr with queue := s.evr.queue ++ [e] } }
      · exact ⟨_, rfl⟩
      · exact ⟨_, rfl⟩

/-- Handing events changes no waiting access but EVR's. -/
theorem State.handAll_bip (s : State) (es : List Event) : ∃ w, (s.handAll es).bip = { s.bip with waitEvr := w } := by
  unfold State.handAll
  induction es generalizing s with
  | nil => exact ⟨_, rfl⟩
  | cons e es ih =>
    obtain ⟨w, hw⟩ := ih (s.hand e)
    obtain ⟨w', hw'⟩ := s.hand_bip e
    exact ⟨w, by rw [List.foldl_cons, hw, hw']⟩

/-- An access that waits for its client still waits after a grant, or is in flight. -/
theorem Bip.afterGrant_waiting {s : State} (h : s.waitsAdmitted = true) (a : Access)
    (hw : s.bip.waitRqh = some a) :
    (s.bip.afterGrant s.eng.wbase).waitRqh = some a ∨ (s.bip.afterGrant s.eng.wbase).inFlight = some a := by
  have own : ∀ c x, s.bip.waiting c = some x → x.owner = .client c := by
    unfold State.waitsAdmitted at h
    simp only [Bool.and_eq_true] at h
    obtain ⟨⟨⟨_, h1⟩, h2⟩, h3⟩ := h
    intro c x hx
    have e : s.waitAdmitted (.client c) x = true := by
      cases c <;> simp only [Bip.waiting] at hx
      · rw [hx] at h1; exact h1
      · rw [hx] at h2; exact h2
      · rw [hx] at h3; exact h3
    unfold State.waitAdmitted at e
    rw [Bool.and_eq_true, beq_iff_eq] at e
    exact e.1
  have ownEng : ∀ x, s.bip.waitEng = some x → x.owner = .eng := by
    unfold State.waitsAdmitted at h
    simp only [Bool.and_eq_true] at h
    intro x hx
    have e := h.1.1.1
    rw [hx] at e
    have e' : s.waitAdmitted .eng x = true := e
    unfold State.waitAdmitted at e'
    rw [Bool.and_eq_true, beq_iff_eq] at e'
    exact e'.1
  unfold Bip.afterGrant
  split
  · rename_i x hf hn
    rcases Bip.next_eq_some hn with hx | ⟨c, hx⟩
    · left
      unfold Bip.unwait
      rw [ownEng x hx]
      exact hw
    · unfold Bip.unwait
      rw [own c x hx]
      cases c with
      | rqh =>
        right
        simp only [Bip.waiting] at hx
        rw [hw] at hx
        simpa using hx.symm
      | pse => left; exact hw
      | evr => left; exact hw
  · exact Or.inl hw
  · exact Or.inl hw

end Sys2Proof.Machine
end

