-- ==== Sys2Proof/Laws/Flags.lean ====
section
/-! SUPPORT. The fields of STAT, and the bits WBASE keeps. -/
namespace Sys2Proof.Machine

/-- A field above the lower part of a joined word is a field of the upper part. -/
theorem extract_upper {n m k : Nat} (h : n + m = k) (x : BitVec n) (y : BitVec m) (l w : Nat) (hl : m ≤ l) :
    ((x ++ y : BitVec (n + m)).cast h).extractLsb' l w = x.extractLsb' (l - m) w := by
  subst h
  ext i hi
  simp [BitVec.getLsbD_append, show ¬ (l + i < m) by omega, show l + i - m = l - m + i by omega]

/-- The lower part of a joined word. -/
theorem extract_lower {n m k : Nat} (h : n + m = k) (x : BitVec n) (y : BitVec m) :
    ((x ++ y : BitVec (n + m)).cast h).extractLsb' 0 m = y := by
  subst h
  ext i hi
  simp [BitVec.getLsbD_append, hi]

/-- The fields of a word laid out as STAT is, from bit 31 down. -/
theorem stat_layout (a : BitVec 16) (b : BitVec 5) (c d : BitVec 2) (p q r t : BitVec 1) (z : BitVec 3) :
    let v : Word := a ++ b ++ c ++ d ++ p ++ q ++ r ++ t ++ z
    v.extractLsb' 0 3 = z ∧ v.extractLsb' 3 1 = t ∧ v.extractLsb' 4 1 = r ∧ v.extractLsb' 5 1 = q
    ∧ v.extractLsb' 6 1 = p ∧ v.extractLsb' 7 2 = d ∧ v.extractLsb' 9 2 = c ∧ v.extractLsb' 11 5 = b
    ∧ v.extractLsb' 16 16 = a := by
  have up : ∀ l w, 3 ≤ l → (a ++ b ++ c ++ d ++ p ++ q ++ r ++ t ++ z : Word).extractLsb' l w
      = (a ++ b ++ c ++ d ++ p ++ q ++ r ++ t : BitVec 29).extractLsb' (l - 3) w := fun l w h =>
    extract_upper (n := 29) (m := 3) rfl _ _ _ _ h
  have up1 : ∀ l w, 1 ≤ l → (a ++ b ++ c ++ d ++ p ++ q ++ r ++ t : BitVec 29).extractLsb' l w
      = (a ++ b ++ c ++ d ++ p ++ q ++ r : BitVec 28).extractLsb' (l - 1) w := fun l w h =>
    extract_upper (n := 28) (m := 1) rfl _ _ _ _ h
  have up2 : ∀ l w, 1 ≤ l → (a ++ b ++ c ++ d ++ p ++ q ++ r : BitVec 28).extractLsb' l w
      = (a ++ b ++ c ++ d ++ p ++ q : BitVec 27).extractLsb' (l - 1) w := fun l w h =>
    extract_upper (n := 27) (m := 1) rfl _ _ _ _ h
  have up3 : ∀ l w, 1 ≤ l → (a ++ b ++ c ++ d ++ p ++ q : BitVec 27).extractLsb' l w
      = (a ++ b ++ c ++ d ++ p : BitVec 26).extractLsb' (l - 1) w := fun l w h =>
    extract_upper (n := 26) (m := 1) rfl _ _ _ _ h
  have up4 : ∀ l w, 1 ≤ l → (a ++ b ++ c ++ d ++ p : BitVec 26).extractLsb' l w
      = (a ++ b ++ c ++ d : BitVec 25).extractLsb' (l - 1) w := fun l w h =>
    extract_upper (n := 25) (m := 1) rfl _ _ _ _ h
  have up5 : ∀ l w, 2 ≤ l → (a ++ b ++ c ++ d : BitVec 25).extractLsb' l w
      = (a ++ b ++ c : BitVec 23).extractLsb' (l - 2) w := fun l w h =>
    extract_upper (n := 23) (m := 2) rfl _ _ _ _ h
  have up6 : ∀ l w, 2 ≤ l → (a ++ b ++ c : BitVec 23).extractLsb' l w
      = (a ++ b : BitVec 21).extractLsb' (l - 2) w := fun l w h =>
    extract_upper (n := 21) (m := 2) rfl _ _ _ _ h
  have up7 : ∀ l w, 5 ≤ l → (a ++ b : BitVec 21).extractLsb' l w = a.extractLsb' (l - 5) w := fun l w h =>
    extract_upper (n := 16) (m := 5) rfl _ _ _ _ h
  dsimp only
  refine ⟨?_, ?_, ?_, ?_, ?_, ?_, ?_, ?_, ?_⟩
  · exact extract_lower (n := 29) (m := 3) rfl _ _
  · rw [up _ _ (by omega)]; exact extract_lower (n := 28) (m := 1) rfl _ _
  · rw [up _ _ (by omega), up1 _ _ (by omega)]; exact extract_lower (n := 27) (m := 1) rfl _ _
  · rw [up _ _ (by omega), up1 _ _ (by omega), up2 _ _ (by omega)]
    exact extract_lower (n := 26) (m := 1) rfl _ _
  · rw [up _ _ (by omega), up1 _ _ (by omega), up2 _ _ (by omega), up3 _ _ (by omega)]
    exact extract_lower (n := 25) (m := 1) rfl _ _
  · rw [up _ _ (by omega), up1 _ _ (by omega), up2 _ _ (by omega), up3 _ _ (by omega), up4 _ _ (by omega)]
    exact extract_lower (n := 23) (m := 2) rfl _ _
  · rw [up _ _ (by omega), up1 _ _ (by omega), up2 _ _ (by omega), up3 _ _ (by omega), up4 _ _ (by omega),
      up5 _ _ (by omega)]
    exact extract_lower (n := 21) (m := 2) rfl _ _
  · rw [up _ _ (by omega), up1 _ _ (by omega), up2 _ _ (by omega), up3 _ _ (by omega), up4 _ _ (by omega),
      up5 _ _ (by omega), up6 _ _ (by omega)]
    exact extract_lower (n := 16) (m := 5) rfl _ _
  · rw [up _ _ (by omega), up1 _ _ (by omega), up2 _ _ (by omega), up3 _ _ (by omega), up4 _ _ (by omega),
      up5 _ _ (by omega), up6 _ _ (by omega), up7 _ _ (by omega)]
    ext i hi
    simp

/-- A flag of STAT by its one-bit field. -/
theorem getLsbD_of_field {v : Word} {l : Nat} {b : Bool} (h : v.extractLsb' l 1 = BitVec.ofBool b) :
    v.getLsbD l = b := by
  have h1 := congrArg (fun x : BitVec 1 => x.getLsbD 0) h
  simp at h1
  simpa using h1

/-- The fields of STAT as they are joined (R188). -/
theorem State.statWord_fields (s : State) :
    s.statWord.extractLsb' 0 3 = BitVec.ofNat 3 s.eng.engine.code
    ∧ s.statWord.extractLsb' 3 1 = BitVec.ofBool s.eng.faultEntry
    ∧ s.statWord.extractLsb' 4 1 = BitVec.ofBool s.rqh.waitingForTicket
    ∧ s.statWord.extractLsb' 5 1 = BitVec.ofBool s.evr.ackInvalid
    ∧ s.statWord.extractLsb' 6 1 = BitVec.ofBool s.eng.secondFault
    ∧ s.statWord.extractLsb' 7 2 = BitVec.ofNat 2 (match s.eng.faultRecord with | some r => r.kind.code | none => 0)
    ∧ s.statWord.extractLsb' 9 2 = BitVec.ofNat 2 (match s.eng.faultRecord with | some r => r.client.code | none => 0)
    ∧ s.statWord.extractLsb' 11 5 = s.eng.lastRefusal.extractLsb' 0 5
    ∧ s.statWord.extractLsb' 16 16 = s.statHigh :=
  stat_layout _ _ _ _ _ _ _ _ _

/-- The word WBASE stores has its lowest two bits cleared (R174). -/
theorem wbase_stored (w : Word) : (w &&& (0xFFFFFFFC : Word)).toNat = w.toNat / 4 * 4 := by
  have hc : (0xFFFFFFFC : Word) = (0x3FFFFFFF : Word) <<< 2 := by decide
  have h : w &&& (0xFFFFFFFC : Word) = (w >>> 2) <<< 2 := by
    have hm : ∀ j, j < 30 → (0x3FFFFFFF : Word).getLsbD j = true := by decide
    rw [hc]
    apply BitVec.eq_of_getLsbD_eq
    intro i hi
    rw [BitVec.getLsbD_and, BitVec.getLsbD_shiftLeft, BitVec.getLsbD_shiftLeft, BitVec.getLsbD_ushiftRight]
    by_cases h2 : i < 2
    · simp [h2]
    · rw [hm (i - 2) (by omega)]
      simp [h2, hi, show 2 + (i - 2) = i by omega]
  rw [h]
  have := w.isLt
  simp [BitVec.toNat_shiftLeft, BitVec.toNat_ushiftRight, Nat.shiftLeft_eq, Nat.shiftRight_eq_div_pow]
  omega

end Sys2Proof.Machine
end

