-- ==== Sys2Proof/Laws/Library.lean ====
section
/-! SUPPORT. The library's operations: the slots and the blocks each leaves; the order of a body's y values. -/
namespace Sys2Proof.Machine

/-- Discard leaves the slots, ends the body under construction and frees its blocks (R31). -/
theorem Clb.discard_spec (clb : Clb) :
    clb.discard.slots = clb.slots ∧ clb.discard.building = none
    ∧ clb.discard.free = clb.free ++ clb.buildingBlocks := by
  unfold Clb.discard Clb.buildingBlocks
  cases h : clb.building <;> simp [h]

/-- Binding a point keeps the bodies, the free blocks and the body under construction. -/
theorem Clb.bindPoint_spec (clb : Clb) (d : PointDef) :
    (clb.bindPoint d).free = clb.free ∧ (clb.bindPoint d).building = clb.building
    ∧ ∀ c : Fin 64, (clb.bindPoint d).slots[c].body = clb.slots[c].body := by
  unfold Clb.bindPoint
  cases d.curve with
  | none => exact ⟨rfl, rfl, fun _ => rfl⟩
  | some e =>
    refine ⟨rfl, rfl, fun c => ?_⟩
    simp only [Clb.setSlot, Fin.getElem_fin, Vector.getElem_set]
    split <;> rename_i h
    · have : e = c := Fin.ext h
      subst this
      cases d.direction <;> rfl
    · rfl

/-- So does unbinding one. -/
theorem Clb.unbindPoint_spec (clb : Clb) (d : Option PointDef) :
    (clb.unbindPoint d).free = clb.free ∧ (clb.unbindPoint d).building = clb.building
    ∧ ∀ c : Fin 64, (clb.unbindPoint d).slots[c].body = clb.slots[c].body := by
  unfold Clb.unbindPoint
  cases d with
  | none => exact ⟨rfl, rfl, fun _ => rfl⟩
  | some d =>
    dsimp only
    cases d.curve with
    | none => exact ⟨rfl, rfl, fun _ => rfl⟩
    | some e =>
      refine ⟨rfl, rfl, fun c => ?_⟩
      simp only [Clb.setSlot, Fin.getElem_fin, Vector.getElem_set]
      split <;> rename_i h
      · have : e = c := Fin.ext h
        subst this
        cases d.direction <;> rfl
      · rfl

/-- The zone a point starts from (R66, R91). -/
theorem PointZone.start_eq (d : Option PointDef) :
    PointZone.start d = ⟨if (d.bind PointDef.zoneSet).isSome then .unknown else .none, false⟩ := by
  cases d with
  | none => rfl
  | some d => obtain ⟨a, b, c, z, e⟩ := d; cases z <;> rfl

/-! ### The order of the y values (R20) -/

/-- Strictly ascending: each y value is less than the one after it. -/
theorem isAscending_iff (first : Pair) (rest : List Pair) :
    isAscending first rest = true ↔ ∀ (i : Nat) (h : i + 1 < (first :: rest).length),
      (first :: rest)[i].y.toInt < (first :: rest)[i + 1].y.toInt := by
  induction rest generalizing first with
  | nil => simp [isAscending]
  | cons q rest ih =>
    rw [isAscending, Bool.and_eq_true, ih, decide_eq_true_iff]
    constructor
    · rintro ⟨h0, h⟩ (_ | i) hi
      · exact h0
      · exact h i (by simpa using hi)
    · exact fun h => ⟨h 0 (by simp), fun i hi => h (i + 1) (by simpa using hi)⟩

/-- Strictly descending: each y value is greater than the one after it. -/
theorem isDescending_iff (first : Pair) (rest : List Pair) :
    isDescending first rest = true ↔ ∀ (i : Nat) (h : i + 1 < (first :: rest).length),
      (first :: rest)[i + 1].y.toInt < (first :: rest)[i].y.toInt := by
  induction rest generalizing first with
  | nil => simp [isDescending]
  | cons q rest ih =>
    rw [isDescending, Bool.and_eq_true, ih, decide_eq_true_iff]
    constructor
    · rintro ⟨h0, h⟩ (_ | i) hi
      · exact h0
      · exact h i (by simpa using hi)
    · exact fun h => ⟨h 0 (by simp), fun i hi => h (i + 1) (by simpa using hi)⟩

end Sys2Proof.Machine
end

