-- ==== Sys2Proof/Laws/Publication.lean ====
section
/-! SUPPORT. What the law of publication rests on: the publication word's two fields, the areas of a checked configuration, the
words of the window under a write, and the register offsets. -/
namespace Sys2Proof.Machine

/-! ### The publication word (R126) -/

theorem publicationWord_toNat (b : Fin 3) (n : Word) :
    (publicationWord b.val n).toNat = n.toNat % 2 ^ 30 * 4 + b.val := by
  have := b.isLt
  simp only [publicationWord, BitVec.toNat_ofNat]
  omega

/-- The bank field of the publication word of bank `b`. -/
theorem namedBank_publicationWord (b : Fin 3) (n : Word) : namedBank (publicationWord b.val n) = some b := by
  have h : (publicationWord b.val n).toNat % 4 = b.val := by
    rw [publicationWord_toNat]
    have := b.isLt
    omega
  unfold namedBank
  rw [h]
  fin_cases b <;> rfl

/-- The pass field of the publication word of pass `n`. -/
theorem publicationPass_publicationWord (b : Fin 3) (n : Word) :
    publicationPass (publicationWord b.val n) = n.toNat % 2 ^ 30 := by
  have := b.isLt
  rw [publicationPass, publicationWord_toNat]
  omega

/-- A publication or hold word names bank `b` exactly when its lowest two bits are `b`. -/
theorem namedBank_eq_some (w : Word) (b : Fin 3) : namedBank w = some b ↔ w.toNat % 4 = b.val := by
  have h : w.toNat % 4 < 4 := Nat.mod_lt _ (by omega)
  unfold namedBank
  generalize w.toNat % 4 = k at h
  interval_cases k <;> fin_cases b <;> simp

/-! ### A checked configuration (R160) -/

/-- A configuration whose areas do not overlap keeps bank area and strip out of the control block and apart. -/
theorem Configuration.apart_of_overlap {c : Configuration} (h : c.overlap = none) (hs : 0 < c.stripCapacity) :
    c.apart := by
  simp only [Configuration.overlap, Configuration.area, Configuration.areas, areasOverlap, List.find?_eq_none,
    Config.controlBlockBytes, Config.bankAreaBytes] at h
  have h13 := h (1, 3) (by simp)
  have h14 := h (1, 4) (by simp)
  have h34 := h (3, 4) (by simp)
  simp at h13 h14 h34
  refine ⟨by omega, by omega, hs, ?_⟩
  omega

/-- A configuration that CONFIGURE accepts. -/
theorem State.checkConfigure_apart {s : State} {h : Held} {c : Configuration} (hc : s.checkConfigure h = .ok c) :
    c.apart := by
  unfold State.checkConfigure at hc
  split at hc
  · exact absurd hc (by simp)
  · dsimp only at hc
    split at hc
    · exact absurd hc (by simp)
    · split at hc
      · exact absurd hc (by simp)
      · split at hc
        · exact absurd hc (by simp)
        · split at hc
          · exact absurd hc (by simp)
          · split at hc
            · exact absurd hc (by simp)
            · split at hc
              · exact absurd hc (by simp)
              · split at hc
                · exact absurd hc (by simp)
                · rename_i ho
                  obtain rfl := Except.ok.inj hc
                  exact Configuration.apart_of_overlap ho (by simp only; omega)

/-! ### Words of the window -/

/-- A word of the window reads as before a write elsewhere, when the access is at WBASE. -/
theorem State.windowWord_placeWord_other {s : State} (hb : s.bip.base = s.eng.wbase) (o x : Nat) (w : Word)
    (h : x + 4 ≤ o ∨ o + 4 ≤ x) : (s.placeWord o w).windowWord x = s.windowWord x := by
  simp only [State.windowWord, State.placeWord, State.busAddress, hb]
  exact Memory.readWord_writeWord_other _ _ _ _ (by omega)

/-- A word written at WBASE reads as written. -/
theorem State.windowWord_placeWord_same {s : State} (hb : s.bip.base = s.eng.wbase) (o : Nat) (w : Word) :
    (s.placeWord o w).windowWord o = some w := by
  simp only [State.windowWord, State.placeWord, State.busAddress, hb]
  exact Memory.readWord_writeWord_same _ _ _

/-- The words of two banks lie apart. -/
theorem Configuration.bankWord_apart (c : Configuration) {b b' : Fin 3} (hb : b ≠ b') {j j' : Nat} (hj : j < 516)
    (hj' : j' < 516) : c.bankWord b j + 4 ≤ c.bankWord b' j' ∨ c.bankWord b' j' + 4 ≤ c.bankWord b j := by
  have h : b.val ≠ b'.val := fun e => hb (Fin.ext e)
  simp only [Configuration.bankWord, Config.bankBytes]
  omega

/-- A word of a bank lies in the bank area. -/
theorem Configuration.bankWord_inside (c : Configuration) (b : Fin 3) {j : Nat} (hj : j < 516) :
    c.bankOffset ≤ c.bankWord b j ∧ c.bankWord b j + 4 ≤ c.bankOffset + 6192 := by
  have := b.isLt
  simp only [Configuration.bankWord, Config.bankBytes]
  omega

/-! ### Register offsets (R188) -/

/-- A register stands at its own offset. -/
theorem registerAt_offset (r : Register) : registerAt r.offset = some r := by cases r <;> rfl

/-- A write at a register's offset puts that register's command at the end of the queue, and is all it does. -/
theorem State.registerWrite_offset (s : State) (r : Register) (w : Word) :
    s.registerWrite r.offset w = { s with pending := s.pending ++ [r.writeCommand w] } := by
  simp [State.registerWrite, writeCommandAt, registerAt_offset]

/-- Where no register stands, nothing is written. -/
theorem State.registerWrite_none (s : State) (o : Nat) (w : Word) (h : registerAt o = none) :
    s.registerWrite o w = s := by
  simp [State.registerWrite, writeCommandAt, h]

end Sys2Proof.Machine
end

