-- ==== Sys2Proof/Tests/Slice0.lean ====
section
/-! SUPPORT. Small tests: the check of commands, values the spec's examples give, one step of each command, and for every statement
with hypotheses a concrete state and operands that meet them (`test_meets_…`), clause by clause. -/
namespace Sys2Proof.Tests
open Sys2Proof Sys2Proof.Machine
set_option Elab.async false

/-! ### Helpers -/

/-- The state a command answers with. -/
def after (i : Instr) (s : State) : State :=
  match exec i s with
  | .next t => t
  | .fault _ | .refused _ => State.reset

/-- The configuration of the worked sequence 11.1, with the strip of chapter 7.7's examples (capacity 16). -/
def config : Configuration := ⟨1088, 64, 1536, 8192, 16, 100, .both⟩

/-- Attached, IDLE, no configuration (chapter 11.1). -/
def attached : State :=
  { State.reset with eng := { Eng.powerOn with engine := .idle, wbase := 0x20000000, windowLength := some 65536 } }

/-- IDLE with a configuration. -/
def configured : State := { attached with eng := { attached.eng with config := some config } }

/-- RUNNING. -/
def running : State := { configured with eng := { configured.eng with engine := .running } }

/-- Another engine state. -/
def inState (e : EngineState) (s : State) : State := { s with eng := { s.eng with engine := e } }

/-- An access of an owner in flight. -/
def flight (o : Owner) (offset : Nat) (op : AccessOp) (s : State) : State :=
  { s with bip := { s.bip with inFlight := some ⟨o, offset, op⟩, base := s.eng.wbase } }

/-- PSE's access in flight. -/
abbrev pseFlight (offset : Nat) (op : AccessOp) (s : State) : State := flight (.client .pse) offset op s
/-- RQH's access in flight. -/
abbrev rqhFlight (offset : Nat) (op : AccessOp) (s : State) : State := flight (.client .rqh) offset op s
/-- EVR's access in flight. -/
abbrev evrFlight (offset : Nat) (op : AccessOp) (s : State) : State := flight (.client .evr) offset op s

/-- A pass at a stage. -/
def inPass (p : PassStage) (s : State) : State := { s with pse := { s.pse with pass := some p } }

/-- Eight parameter words. -/
def words8 (l : List Word) : Vector Word 8 :=
  #v[l.getD 0 0, l.getD 1 0, l.getD 2 0, l.getD 3 0, l.getD 4 0, l.getD 5 0, l.getD 6 0, l.getD 7 0]

/-- A request in slot 2 with ticket 102. -/
def request (kind : Byte) (params : List Word) (st : HeldStage) : Held := ⟨2, kind, 102, words8 params, st⟩

/-- RQH holds a request. -/
def holding (h : Held) (s : State) : State := { s with rqh := { s.rqh with held := some h } }

/-- RQH part-way through a scan or a take. -/
def scanning (sc : ScanStage) (s : State) : State := { s with rqh := { s.rqh with scan := some sc } }

/-- The write of header word 10 is in flight for a request of this kind. -/
def takeEnds (kind : Byte) (params : List Word) (s : State) : State :=
  rqhFlight 40 (.write 102) (scanning .ticketWrite (holding (request kind params .taken) s))

/-- EVR's work. -/
def recording (k : EvrWork) (s : State) : State := { s with evr := { s.evr with work := k } }

/-- A point's definition, its working state as after SET_POINT. -/
def withPoint (i : Fin 256) (p : Point) (s : State) : State := { s with ptb := ⟨s.ptb.points.set i p⟩ }

/-- A live body in a slot. -/
def withBody (c : Fin 64) (b : Body) (s : State) : State :=
  { s with clb := s.clb.setSlot c { s.clb.slots[c] with body := some b } }

/-- The result code and words of the held request, and the word on its way. -/
def finishingOf (s : State) : Option (ResultCode × List Word) :=
  match s.rqh.held with
  | some ⟨_, _, _, _, .finishing code r _⟩ => some (code, r.toList)
  | _ => none

/-- A signed value as a word. -/
abbrev int (n : Int) : Word := BitVec.ofInt 32 n

/-- The hypotheses the answers' statements share: the access awaited, every waiting access admitted, the areas in the window. -/
def ready (s : State) (o : Owner) : Bool := (s.awaited o).isSome && s.waitsAdmitted && s.placed

/-! ### Commands that are not well formed -/

theorem test_a_known_code_is_no_unknown_command : (Instr.unknownCommandCode 1).wellFormed = false := by decide

theorem test_code_8_is_no_unknown_command : (Instr.unknownCommandCode 0xABCD08).wellFormed = false := by decide

theorem test_unknown_codes_are_well_formed :
    (Instr.unknownCommandCode 0).wellFormed ∧ (Instr.unknownCommandCode 9).wellFormed
      ∧ (Instr.unknownCommandCode 0xFFFFFF00).wellFormed ∧ (Instr.unknownCommandCode 255).wellFormed := by decide

/-- A word of CMD's code alone and a whole word spell a command; a word of another width none. -/
theorem test_words_of_cmd :
    decodeTableWord 8 3 = some (.run 0) ∧ decodeTableWord 32 0xABCDEF01 = some (.attach 0xABCDEF)
    ∧ decodeTableWord 32 9 = some (.unknownCommandCode 9) ∧ decodeTableWord 0 0 = none ∧ decodeTableWord 40 1 = none
    ∧ (State.reset.withFetchWord 32 0xABCDEF01).pending = [.attach 0xABCDEF]
    ∧ State.reset.withFetchWord 0 1 = State.reset := by
  refine ⟨by decide +kernel, by decide +kernel, by decide +kernel, rfl, rfl, by decide +kernel, rfl⟩

/-- The eight codes with upper bits set, and the codes on both sides of their range (R164). -/
theorem test_command_words :
    [1, 2, 3, 4, 5, 6, 7, 8].map (fun n => Instr.ofCommandWord (0xABCDEF00 + n))
      = [.attach 0xABCDEF, .detach 0xABCDEF, .run 0xABCDEF, .stop 0xABCDEF, .attend 0xABCDEF, .pass 0xABCDEF,
        .clear 0xABCDEF, .engineReset 0xABCDEF]
    ∧ [0xABCDEF00, 9, 0xFFFFFFFF].map Instr.ofCommandWord
      = [.unknownCommandCode 0xABCDEF00, .unknownCommandCode 9, .unknownCommandCode 0xFFFFFFFF] := by decide +kernel

/-! ### Values the spec gives -/

theorem test_check_word_of_nine_digits :
    checkBytes checkInitial [0x31, 0x32, 0x33, 0x34, 0x35, 0x36, 0x37, 0x38, 0x39] = 0x29B1 := by decide +kernel

theorem test_words_are_little_endian :
    Memory.writeWord [] 4096 0x12345678 = [(4096, 0x78), (4097, 0x56), (4098, 0x34), (4099, 0x12)] := by decide

theorem test_stat_examples :
    ({ running with rqh := { running.rqh with expectedTicket := 18, waitingForTicket := true } } : State).statWord
      = 0x00120013
    ∧ ({ State.reset with eng := { Eng.powerOn with lastRefusal := 1, attachReason := .signature } } : State).statWord
      = 0x00010800 := by decide

/-- Chapter 1.4. -/
theorem test_linear2_examples :
    ([5000, 6336, 6400, 6401, 6464, 32000, 33000].map
      (fun x => (CurveShape.linear2 6400 32000 0 25000 false).eval .forward (int x))
        = [.value (int (-1367)) .good, .value (int (-63)) .good, .value 0 .good, .value 1 .good, .value 63 .good,
          .value 25000 .good, .value 25977 .good])
    ∧ ([5000, 33000].map (fun x => (CurveShape.linear2 6400 32000 0 25000 true).eval .forward (int x))
        = [.value 0 .clamped, .value 25000 .clamped])
    ∧ ([-100, 1, 26000].map (fun y => (CurveShape.linear2 6400 32000 0 25000 false).eval .inverse (int y))
        = [.value 6298 .good, .value 6401 .good, .value 33024 .good])
    ∧ (CurveShape.linear2 6400 32000 (int (-1000)) 24000 false).eval .forward 6464 = .value (int (-937)) .good := by
  decide +kernel

/-- Chapter 1.5. -/
theorem test_ratio_examples :
    ([-5, -4, 4, 1001].map (fun x => (CurveShape.ratio 5 8 (int (-400))).eval .forward (int x))
      = [.value (int (-403)) .good, .value (int (-403)) .good, .value (int (-397)) .good, .value 226 .good])
    ∧ ([-403, 226].map (fun y => (CurveShape.ratio 5 8 (int (-400))).eval .inverse (int y))
      = [.value (int (-5)) .good, .value 1002 .good])
    ∧ ([-32769, -32768, 32768, 32769].map (fun x => (CurveShape.ratio 65535 1 0).eval .forward (int x))
      = [.value 0x80000000 .clamped, .value (int (-2147450880)) .good, .value 2147450880 .good,
        .value 0x7FFFFFFF .clamped]) := by decide +kernel

/-- Chapter 1.6. -/
theorem test_root_examples :
    [100, 249, 250, 1200, 32967].map (fun x => (CurveShape.root 200 50 10000 0).eval .forward (int x))
      = [.value 0 .cutoff, .value 0 .cutoff, .value 707 .good, .value 3162 .good, .value 18101 .good] := by
  decide +kernel

/-- Chapter 1.7. -/
theorem test_segmented_examples :
    (let s := CurveShape.segmented ⟨0, int (-2000)⟩ [⟨1000, 0⟩, ⟨3000, 5000⟩, ⟨6000, 14000⟩, ⟨10000, 30000⟩];
      [-500, 0, 999, 1000, 1001, 2999, 10000, 12000].map (fun x => s.eval .forward (int x))
        = [.value (int (-2000)) .clamped, .value (int (-2000)) .good, .value (int (-2)) .good, .value 0 .good,
          .value 3 .good, .value 4998 .good, .value 30000 .good, .value 30000 .clamped]
      ∧ [-3000, -1, 0, 20000, 31000].map (fun y => s.eval .inverse (int y))
        = [.value 0 .clamped, .value 1000 .good, .value 1000 .good, .value 7500 .good, .value 10000 .clamped])
    ∧ (let s := CurveShape.segmented ⟨0, 900⟩ [⟨400, 500⟩, ⟨1000, 200⟩];
      [901, 900, 800, 500, 333, 200, 199].map (fun y => s.eval .inverse (int y))
        = [.value 0 .clamped, .value 0 .good, .value 100 .good, .value 400 .good, .value 734 .good,
          .value 1000 .good, .value 1000 .clamped]) := by decide +kernel

/-- The point of chapter 3.7, from its second pass to its sixth. -/
theorem test_point_example :
    let p : Point := ⟨none, [12500], 12500, .usable⟩
    let p2 := p.update 4 (.usable 12625 .good)
    let p3 := p2.point.update 4 (.unusable .badRaw)
    let p4 := p3.point.update 4 (.usable 12750 .good)
    let p5 := p4.point.update 4 (.usable 12875 .good)
    let p6 := p5.point.update 4 (.usable 13000 .good)
    [p2.point.lastOutput, p3.point.lastOutput, p4.point.lastOutput, p5.point.lastOutput, p6.point.lastOutput]
      = [12562, 12562, 12625, 12687, 12812]
    ∧ [p2.event, p3.event, p4.event, p5.event, p6.event] = [none, some .pointBad, some .pointGood, none, none]
    ∧ p6.point.history = [12625, 12750, 12875, 13000] := by decide +kernel

/-- The first alarm of chapter 4.5, passes 1 to 12 without the failed reading, and its acknowledgement. -/
theorem test_zone_example :
    let z : ZoneSet := ⟨true, 1000, 8000, 200, 3, true⟩
    let go (m : ZoneMove) (v : Int) : ZoneMove := z.moveUsable m.zone v
    let run := [5000, 8100, 8050, 7900, 8200, 8300, 8400, 7900, 7700, 8500, 7500].foldl
      (fun l v => l ++ [go (l.getLastD ⟨⟨.unknown, false⟩, []⟩) v]) []
    run.map (fun m => m.zone.state)
      = [.inside, .highPending 1, .highPending 2, .inside, .highPending 1, .highPending 2, .high, .high, .highHeld,
        .high, .highHeld]
    ∧ run.map ZoneMove.events = [[], [], [], [], [], [], [.highEnter], [], [], [], []]
    ∧ (⟨.highHeld, false⟩ : PointZone).acknowledge = ⟨⟨.inside, false⟩, [.highLeave]⟩ := by decide +kernel

/-- The jump of chapter 4.5 with dwell 1 and with dwell 2. -/
theorem test_zone_jump_example :
    (⟨true, int (-500), 500, 100, 1, false⟩ : ZoneSet).moveUsable ⟨.high, true⟩ (-800)
      = ⟨⟨.low, false⟩, [.highLeave, .lowEnter]⟩
    ∧ (⟨true, int (-500), 500, 100, 2, false⟩ : ZoneSet).moveUsable ⟨.high, true⟩ (-800)
      = ⟨⟨.lowPending 1, false⟩, [.highLeave]⟩ := by decide +kernel

/-- The bank rotation of chapter 6.7: hold none through pass 5, bank 1 held in passes 6 to 8. -/
theorem test_bank_rotation_example :
    let run := [none, none, none, none, none, some 1, some 1, some 1, none].foldl
      (fun (l : List (Fin 3) × Pse) hold =>
        let b := l.2.chooseBank hold
        (l.1 ++ [b], l.2.publishBank b)) ([], Pse.powerOn)
    run.1 = [0, 1, 2, 0, 1, 2, 0, 2, 1] ∧ run.2.bankOrder = [0, 2, 1]
    ∧ publicationWord 1 9 = 37 ∧ publicationWord 2 7 = 0x1E ∧ publicationWord 3 0 = 3 := by decide +kernel

/-- Chapter 7.7: an acknowledgement accepted, and one refused. -/
theorem test_acknowledge_examples :
    ({ Evr.powerOn with w := 16 }.takeAck 16 12) = { Evr.powerOn with w := 16, a := 12 }
    ∧ ({ Evr.powerOn with w := 31, a := 15 }.takeAck 16 40) = { Evr.powerOn with w := 31, a := 15, ackInvalid := true }
    ∧ (config.recordWord 17 0, config.recordWord 31 0) = (8192, 8192 + 16 * 14) := by decide +kernel

/-- Chapter 8.2, with the expected ticket 65,534. -/
theorem test_ticket_classes :
    [65534, 65533, 32767, 32766, 32765, 65535, 0].map (ticketClass 65534)
      = [.candidate, .stale, .stale, .stale, .ahead, .ahead, .ahead] := by decide +kernel

/-! ### Steps, reset, commands written to CMD -/

theorem test_step_takes_the_front_command :
    (match step { running with pending := [.stop 7, .clear 0] } with
      | .next t => (t.eng.engine, t.pending)
      | _ => (.detached, [])) = (.idle, [.clear 0]) := by decide +kernel

/-- What is not happening: an answer with no access in flight, another owner's, another stage's, one whose access is disregarded;
and each of the other commands that report what time or the part does. -/
theorem test_meets_EveryCommandCompletes :
    State.reset.pending = []
    ∧ running.notHappening (.startStampReadAnswer (.word 2)) = true
    ∧ (rqhFlight 64 .read (inPass .startStamp running)).notHappening (.startStampReadAnswer (.word 2)) = true
    ∧ (pseFlight 24 .read (inPass .endStamp running)).notHappening (.startStampReadAnswer .error) = true
    ∧ ({ pseFlight 24 .read running with bip := { (pseFlight 24 .read running).bip with disregard := true } }
      : State).notHappening (.endStampReadAnswer (.word 2)) = true
    ∧ State.reset.notHappening (.attachReadAnswer .error) = true
    ∧ (pseFlight 24 .read (inPass .startStamp running)).notHappening (.startStampReadAnswer (.word 2)) = false
    ∧ running.notHappening .passTimerExpiry = true ∧ running.notHappening .busTimeout = true
    ∧ running.notHappening (.disregardedAccessEnd .answered) = true
    ∧ (pseFlight 24 .read running).notHappening (.disregardedAccessEnd .error) = true
    ∧ running.notHappening .releasedApplyStep = true
    ∧ (holding (request 8 [] (.awaitApply (.clearPoint 0) false)) running).notHappening .releasedApplyStep = true
    ∧ (holding (request 8 [] (.awaitApply (.clearPoint 0) true)) running).notHappening .releasedApplyStep = false := by
  decide +kernel

/-- No access in flight; a read; a write; a state word's write. -/
theorem test_meets_PowerOnRestoresThePowerOnValues :
    running.bip.inFlight = none ∧ (pseFlight 24 .read running).bip.inFlight = some ⟨.client .pse, 24, .read⟩
    ∧ (pseFlight 28 (.write 7) running).bip.inFlight = some ⟨.client .pse, 28, .write 7⟩
    ∧ (pseFlight 1536 (.writeState 2) running).bip.inFlight = some ⟨.client .pse, 1536, .writeState 2⟩ := by decide

theorem test_power_on : after .powerOn (pseFlight 24 .read running) = State.reset := rfl

theorem test_meets_AttachBegins : State.reset.eng.engine = .detached ∧ State.reset.eng.wbaseLaw := ⟨rfl, rfl⟩

theorem test_attach :
    (after (.attach 0) State.reset).bip.inFlight = some ⟨.eng, 0, .read⟩
    ∧ (after (.attach 0) State.reset).eng.engine = .attaching := by decide +kernel

/-- The header words read so far, the next one awaited. -/
def attaching (wbase : Word) (words : List Word) : State :=
  flight .eng (4 * words.length) .read
    { State.reset with eng := { Eng.powerOn with engine := .attaching, wbase := wbase, attachWords := words } }

/-- The outcome of an attach after its last word: the engine state, the reason, the window length. -/
def attachOutcome (wbase : Word) (words : List Word) (last : Word) : EngineState × AttachReason × Option Nat :=
  let t := after (.attachReadAnswer (.word last)) (attaching wbase words)
  (t.eng.engine, t.eng.attachReason, t.eng.windowLength)

/-- Words 0 to 2 go on; the fourth ends the attach; a read past the top of the address space, answered or not. -/
theorem test_meets_AttachReadAnswered :
    ([[], [1], [1, 2]].all (fun l =>
      (attaching 0x20000000 l).awaited .eng == some ⟨.eng, 4 * l.length, .read⟩
        && decide ((attaching 0x20000000 l).eng.wbase.toNat + 4 * (l.length + 1) ≤ 2 ^ 32 - 4))) = true
    ∧ (attaching 0xFFFFFFF8 []).eng.wbase.toNat + 4 * 1 ≤ 2 ^ 32 - 4
    ∧ 2 ^ 32 - 4 < (attaching 0xFFFFFFFC []).eng.wbase.toNat + 4 * 1
    ∧ (attaching 0 [0x4B435242, 1, 1088]).bip.next = none := by decide +kernel

/-- The four tests of the fourth word, at the least and the greatest length, and one past them. -/
theorem test_attach_outcomes :
    attachOutcome 0 [0x4B435243, 1, 1088] 5 = (.detached, .signature, none)
    ∧ attachOutcome 0 [0x4B435242, 2, 1088] 5 = (.detached, .version, none)
    ∧ ([1084, 1090, 16777220].map (fun l => attachOutcome 0 [0x4B435242, 1, int l] 5)
      = [(.detached, .length, none), (.detached, .length, none), (.detached, .length, none)])
    ∧ ([1088, 16777216].map (fun l => attachOutcome 0 [0x4B435242, 1, int l] 5)
      = [(.idle, .none, some 1088), (.idle, .none, some 16777216)])
    ∧ attachOutcome 0xFFFFF000 [0x4B435242, 1, 4096] 5 = (.idle, .none, some 4096)
    ∧ attachOutcome 0xFFFFF000 [0x4B435242, 1, 4100] 5 = (.detached, .length, none)
    ∧ attachOutcome 0xFFFFFFFC [] 5 = (.detached, .busError, none)
    ∧ (after .busTimeout (attaching 0 [])).eng.attachReason = .busError := by decide +kernel

/-- IDLE with a released installation that still waits, its body reserved with block 0 (log entry 24). -/
def releasedInstallation : State :=
  let shape : CurveShape := .segmented ⟨0, 0⟩ [⟨10, 20⟩]
  { holding (request 3 [] (.awaitApply (.install 5) true)) configured with
    clb := { configured.clb with
      free := configured.clb.free.drop 1
      building := some ⟨5, 4096, 6, [], some ⟨shape, true, configured.clb.free.take 1⟩⟩ } }

theorem test_meets_DetachEndsTheBinding :
    configured.eng.engine = .idle ∧ releasedInstallation.eng.engine = .idle
    ∧ releasedInstallation.clb.building.isSome ∧ releasedInstallation.clb.free.length = 95 := by decide +kernel

theorem test_detach_gives_up_a_released_installation :
    let t := after (.detach 0) releasedInstallation
    t.rqh.held = none ∧ t.clb.building = none ∧ t.clb.free.length = 96 ∧ t.clb.slots[5].body = none := by decide +kernel

theorem test_detach :
    (after (.detach 0) (evrFlight 36 (.write 1) configured)).eng.engine = .detached
    ∧ (after (.detach 0) (evrFlight 36 (.write 1) configured)).eng.config = none
    ∧ (after (.detach 0) (evrFlight 36 (.write 1) configured)).bip.disregard = true := by decide +kernel

/-- RUN at the greatest pass number that runs; STOP; CLEAR. -/
theorem test_meets_RunStopAndClear :
    (let s : State := { configured with pse := { configured.pse with passNumber := 0xFFFFFFFE } };
      s.eng.engine = .idle ∧ s.eng.config = some config ∧ s.pse.passNumber ≠ 0xFFFFFFFF)
    ∧ running.eng.engine = .running
    ∧ (inState .faulted configured).eng.engine = .faulted ∧ (inState .faulted configured).eng.faultEntry = false := by
  decide

theorem test_run_stop_clear :
    (after (.run 0) configured).pse.timer = some 100 ∧ (after (.run 0) configured).eng.engine = .running
    ∧ (after (.stop 0) running).eng.engine = .idle
    ∧ (after (.stop 0) (inPass .endStamp running)).eng.engine = .stopping
    ∧ (after (.clear 0) (inState .faulted configured)).eng.engine = .idle := by decide +kernel

/-- The three engine states; RQH free, holding a request, and scanning. -/
theorem test_meets_AttendIsAScanOccasion :
    ([.idle, .running, .stopping].all (fun e =>
      let s := inState e configured
      s.eng.engine == e && s.waitsAdmitted && s.placed && s.rqh.held.isNone && s.rqh.scan.isNone)) = true
    ∧ (let s := holding (request 0 [] .taken) running; s.waitsAdmitted ∧ s.placed ∧ s.rqh.held ≠ none)
    ∧ (let s := scanning .ticketWrite running; s.waitsAdmitted ∧ s.placed ∧ s.rqh.scan ≠ none) := by decide +kernel

theorem test_attend :
    (after (.attend 0) running).bip.inFlight = some ⟨.client .rqh, 64, .read⟩
    ∧ (after (.attend 0) (scanning .ticketWrite running)).rqh.scanRequested = true := by decide +kernel

/-- A stopped timer and a running one; a PASS in the modes COMMAND and BOTH; no pass, a pass, a pending trigger with the overrun count at its
greatest value. -/
theorem test_meets_TriggersAreServed :
    (let s : State := { running with pse := { running.pse with timer := some 100 } };
      running.pse.timer = none ∧ s.pse.timer ≠ none ∧ s.waitsAdmitted ∧ s.placed ∧ s.pse.pass = none)
    ∧ ([.command, .both].all (fun m =>
      let s : State := { running with eng := { running.eng with config := some { config with mode := m } } }
      s.eng.config == some { config with mode := m } && s.waitsAdmitted && s.placed)) = true
    ∧ (inPass .endStamp running).pse.pendingTrigger = false
    ∧ (let s := inPass .endStamp running;
      let s : State := { s with pse := { s.pse with pendingTrigger := true, overrunCount := 0xFFFFFFFF } };
      s.waitsAdmitted ∧ s.placed ∧ s.pse.pass ≠ none ∧ s.pse.overrunCount = 0xFFFFFFFF) := by decide +kernel

theorem test_pass_and_timer :
    (after (.pass 0) running).bip.inFlight = some ⟨.client .pse, 24, .read⟩
    ∧ (after .passTimerExpiry running).pse = running.pse ∧ (after .passTimerExpiry running).bip = running.bip
    ∧ (after .passTimerExpiry (inPass .endStamp { running with pse := { running.pse with timer := some 1 } })).pse.pendingTrigger
      = true := by decide +kernel

theorem test_engine_reset :
    (after (.engineReset 0) (pseFlight 24 .read running)).eng.engine = .detached
    ∧ (after (.engineReset 0) (pseFlight 24 .read running)).bip.disregard = true
    ∧ (after (.engineReset 0) running).eng.wbase = 0x20000000 := by decide +kernel

/-- Every command in a state that does not allow it; both kinds of unknown code, at the ends of their range. -/
theorem test_meets_CommandsNotAllowedAreRefused :
    running.eng.engine ≠ .detached ∧ running.eng.engine ≠ .idle ∧ attached.eng.config = none
    ∧ ({ attached with pse := { Pse.powerOn with passNumber := 0xFFFFFFFF } } : State).pse.passNumber = 0xFFFFFFFF
    ∧ attached.eng.engine ≠ .running ∧ (inState .faulted attached).eng.engine = .faulted
    ∧ (inState .attaching attached).eng.engine = .attaching ∧ State.reset.eng.engine = .detached
    ∧ ({ running with eng := { running.eng with config := some { config with mode := .timer } } } : State).eng.config
      = some { config with mode := .timer }
    ∧ ({ attached with eng := { attached.eng with faultEntry := true } } : State).eng.faultEntry = true
    ∧ (0x100 : Word).toNat % 256 = 0 ∧ 9 ≤ (0x109 : Word).toNat % 256 ∧ 9 ≤ (0xFF : Word).toNat % 256
    ∧ State.reset.pending = [] := by decide

/-- A word written at CMD's offset reaches the step: ATTACH with upper bits set, and a code past the last. -/
theorem test_a_word_written_to_cmd_runs :
    (match step (State.reset.registerWrite 0x08 0xABCDEF01), step (State.reset.registerWrite 0x08 9) with
      | .next a, .next b => a.eng.engine == .attaching && a.pending.isEmpty && b.eng.lastRefusal == 255
      | _, _ => false) = true := by decide +kernel

theorem test_refused_commands :
    ([Instr.attach 0, .detach 0, .run 0, .clear 0, .unknownCommandCode 0, .unknownCommandCode 9].map
      (fun i => (after i running).eng.lastRefusal)) = [1, 2, 3, 7, 255, 255]
    ∧ ([Instr.stop 0, .attend 0, .pass 0].map (fun i => (after i (inState .faulted running)).eng.lastRefusal)) = [4, 5, 6]
    ∧ (after (.unknownCommandCode 1) State.reset).eng.engine = .attaching := by decide +kernel

/-! ### The register window -/

theorem test_meets_WbaseWrite : State.reset.eng.engine = .detached ∧ attached.eng.engine ≠ .detached := by decide

theorem test_wbase_write :
    (after (.wbaseWrite 0xFFFFFFFF) State.reset).eng.wbase = 0xFFFFFFFC
    ∧ (after (.wbaseWrite 8) attached).eng.lastRefusal = 16 := by decide +kernel

theorem test_cause_mask_and_intn :
    let s : State := { running with eng := { running.eng with cause := 0x1F } }
    (after (.causeWrite 0xFFFFFFE5) s).eng.cause = 0x1A ∧ (after (.maskWrite 0xFFFFFFE5) s).eng.mask = 5
    ∧ (after (.maskWrite 0x10) s).intn = false ∧ s.intn = true
    ∧ (after (.registerWriteDisregarded .stat 0xFFFFFFFF) s).eng = s.eng := by decide +kernel

/-- The rows of R188's table, an offset between two rows and the one past the last. -/
theorem test_registers_by_offset :
    [0x00, 0x04, 0x08, 0x0C, 0x10, 0x14, 0x18, 0x02, 0x1C].map registerAt
      = [some .ident, some .wbase, some .cmd, some .stat, some .cause, some .mask, some .faddr, none, none]
    ∧ attached.readAt 0x04 = some 0x20000000 ∧ attached.readAt 0x00 = some 0x0256A001
    ∧ writeCommandAt 0x08 0x00000003 = some (.run 0) ∧ writeCommandAt 0x18 5 = some (.registerWriteDisregarded .faddr 5) := by
  decide +kernel

/-- No record, a record with the greatest offset; attached and not. -/
theorem test_meets_RegistersShowTheirSources :
    running.eng.faultRecord = none
    ∧ ({ running with eng := { running.eng with faultRecord := some ⟨.timeout, .rqh, 0xFFFFFFFF⟩ } } : State).eng.faultRecord
      = some ⟨.timeout, .rqh, 0xFFFFFFFF⟩
    ∧ (0xFFFFFFFF : Nat) < 2 ^ 32 ∧ running.eng.engine ≠ .detached ∧ running.eng.engine ≠ .attaching
    ∧ State.reset.eng.engine = .detached ∧ (inState .attaching State.reset).eng.engine = .attaching
    ∧ writeCommandAt 0x18 5 = some (.registerWriteDisregarded .faddr 5) ∧ registerAt 0x1C = none := by decide

/-! ### Failed accesses -/

/-- PSE's read without an answer; EVR's write answered with an error; RQH's with a request held, its effect taken or not. -/
theorem test_meets_FailedAccessEntersFaulted :
    (let s := pseFlight 24 .read (inPass .startStamp running);
      s.awaited (.client .pse) = some ⟨.client .pse, 24, .read⟩ ∧ s.placed = true
        ∧ s.isErrorAnswer (.startStampReadAnswer .error) .pse = true ∧ s.rqh.held = none)
    ∧ (let s := evrFlight 36 (.write 5) (recording (.writing 5 ⟨.overrun, 255, 1, 0, 1⟩ 4 none) running);
      ready s (.client .evr) = true ∧ s.isErrorAnswer (.highWaterWriteAnswer .error) .evr = true)
    ∧ ([false, true].all (fun taken =>
      let s := rqhFlight 192 (.write 0) (holding (request 0 [] (.finishing .ok (resultWords []) 7)) running)
      let s : State := { s with rqh := { s.rqh with effectTaken := taken } }
      ready s (.client .rqh) && s.isErrorAnswer (.finishingWriteAnswer .error) .rqh && s.rqh.failureFaults)) = true := by
  decide +kernel

theorem test_timeout_faults :
    let t := after .busTimeout (pseFlight 24 .read (inPass .startStamp running))
    (t.eng.engine, t.eng.faultEntry, t.eng.faultRecord, t.eng.cause, t.pse.pass)
      = (.faulted, false, some ⟨.timeout, .pse, 24⟩, 8, none)
    ∧ t.readRegister .stat = 0x00000305 := by decide +kernel

/-- A disregarded read and two disregarded writes; no access, and one that is not marked. -/
theorem test_meets_DisregardedAccessEnds :
    [AccessOp.read, .write 9, .writeState 2].all (fun op =>
      let s := rqhFlight 64 op State.reset
      let s : State := { s with bip := { s.bip with disregard := true } }
      s.bip.inFlight == some ⟨.client .rqh, 64, op⟩ && s.bip.disregard && s.waitsAdmitted) = true
    ∧ State.reset.bip.inFlight = none ∧ (rqhFlight 64 .read State.reset).bip.disregard = false := by decide +kernel

/-- Bank 0 FILLING, and the COMPLETE header's state word on the bus. -/
def fillingStateWord : State :=
  { pseFlight 1536 (.writeState 2) (inPass (.completeHeader 3) running) with
    window := [(0x20000600, 1), (0x20000601, 0), (0x20000602, 0), (0x20000603, 0)] }

/-- The state word that fails, by an error, a timeout, or after an ENGINE_RESET, leaves the bank FILLING; answered, it stands. -/
theorem test_failed_state_word_leaves_the_bank_filling :
    ([after (.completeHeaderWriteAnswer .error) fillingStateWord, after .busTimeout fillingStateWord,
      after (.disregardedAccessEnd .error) (after (.engineReset 0) fillingStateWord)].map State.window)
      = [fillingStateWord.window, fillingStateWord.window, fillingStateWord.window]
    ∧ (after (.completeHeaderWriteAnswer .done) fillingStateWord).windowWord 1536 = some 2
    ∧ (after (.disregardedAccessEnd .answered) (after (.engineReset 0) fillingStateWord)).windowWord 1536 = some 2 := by
  decide +kernel

theorem test_disregarded_write_lands :
    let s := rqhFlight 64 (.write 0x01020304) attached
    let s : State := { s with bip := { s.bip with disregard := true } }
    (after (.disregardedAccessEnd .answered) s).window
      = [(0x20000040, 4), (0x20000041, 3), (0x20000042, 2), (0x20000043, 1)]
    ∧ (after (.disregardedAccessEnd .answered) s).bip.inFlight = none := by decide +kernel

/-- Both words of the abandon-write. -/
theorem test_meets_AbandonWriteEnds :
    [false, true].all (fun word0 =>
      let s := rqhFlight 228 (.write 12) (holding (request 3 [] (.abandonWrite word0)) (inState .faulted configured))
      s.rqh.held == some (request 3 [] (.abandonWrite word0)) && ready s (.client .rqh)) = true := by decide +kernel

theorem test_abandon_write :
    let s (word0 : Bool) : State :=
      rqhFlight 228 (.write 12) (holding (request 3 [] (.abandonWrite word0)) (inState .faulted configured))
    (after (.abandonWriteAnswer .done) (s false)).bip.inFlight = some ⟨.client .rqh, 192, .write 0x00660304⟩
    ∧ (after (.abandonWriteAnswer .done) (s true)).eng.cause = 9 := by decide +kernel

/-- The addresses just below and just above the access in flight are outside it. -/
theorem test_meets_OnlyTheAccessInFlightChangesTheWindow :
    let s := pseFlight 28 (.write 7) running
    s.bip.inFlight = some ⟨.client .pse, 28, .write 7⟩ ∧ s.busAddress 28 = 0x2000001C
    ∧ ¬(0x2000001C ≤ 0x2000001B) ∧ ¬(0x20000020 < 0x2000001C + 4) := by decide +kernel

/-! ### The pass -/

/-- The start stamp awaited; then a stopping engine, a pending trigger, a request held at its apply step. -/
def startStamp : State := pseFlight 24 .read (inPass .startStamp running)

/-- The same with a request that waits for its apply step. -/
def startStampHolding (e : Edit) : State := holding (request 7 [] (.awaitApply e false)) startStamp

theorem test_meets_StartStampAnswered :
    startStamp.pse.pass = some .startStamp ∧ ready startStamp (.client .pse) = true
    ∧ (2 : Word).getLsbD 0 = false ∧ (3 : Word).getLsbD 0 = true ∧ startStamp.rqh.waitingEdit = none
    ∧ (inState .stopping startStamp).eng.engine = .stopping ∧ ready (inState .stopping startStamp) (.client .pse) = true
    ∧ (let s := startStampHolding (.clearPoint 255);
      let s : State := { s with pse := { s.pse with pendingTrigger := true } };
      s.rqh.held = some (request 7 [] (.awaitApply (.clearPoint 255) false)) ∧ ready s (.client .pse) = true
        ∧ s.pse.pendingTrigger = true)
    ∧ (startStampHolding (.clearPoint 255)).pse.pendingTrigger = false := by decide +kernel

/-- A pass that ends with an edit whose owner hands an event, a trigger pending: with INPUT_BUSY in either order, and without. -/
theorem test_meets_the_end_of_a_pass_with_events :
    let p : Point := ⟨some ⟨.raw 5 .s16 0 9, none, .forward, some 4, 1⟩, [], 7500, .usable⟩
    let s := withPoint 12 p (startStampHolding (.ackZone (.point 12)))
    let s : State := { s with
      zsv := { s.zsv with zones := s.zsv.zones.set 12 ⟨.highHeld, false⟩ }
      pse := { s.pse with pendingTrigger := true } }
    s.rqh.waitingEdit = some (.ackZone (.point 12)) ∧ ready s (.client .pse) = true ∧ s.pse.skipFlag = false
    ∧ (s.applyEdit (.ackZone (.point 12))).events = [⟨.highLeave, 12, 7500, 2, 0⟩]
    ∧ (startStampHolding (.clearPoint 255)).rqh.busy = true ∧ startStamp.rqh.busy = false := by decide +kernel

theorem test_joins_among (e o : Event) : joinsAmong (some e) [o] [e, o] ∧ joinsAmong (some e) [o] [o, e]
    ∧ joinsAmong none [o] [o] := ⟨⟨0, rfl⟩, ⟨1, rfl⟩, rfl⟩

theorem test_start_stamp :
    (let t := after (.startStampReadAnswer (.word 2)) startStamp;
      (t.pse.pass, t.pse.passNumber, t.pse.runningCheck, t.bip.inFlight)
        = (some .holdRead, 1, 0xFFFF, some ⟨.client .pse, 16, .read⟩))
    ∧ (let t := after (.startStampReadAnswer (.word 3)) startStamp;
      (t.pse.pass, t.pse.skipped, t.pse.skipFlag, t.evr.work, t.rqh.scan)
        = (none, 1, true, .writing 1 ⟨.inputBusy, 255, 3, 0, 0⟩ 0 none, some (.reading 0 (Vector.replicate 16 0)))
      ∧ (t.bip.inFlight, t.bip.waitEvr) = (some ⟨.client .rqh, 64, .read⟩, some ⟨.client .evr, 8196, .write 0x0000FF09⟩)) := by
  decide +kernel

/-- The bank of chapter 6.7 unconfirmed, its publication word and another; the hold word. -/
theorem test_meets_BankWordsAnswered :
    (let s := pseFlight 28 .read (inPass .unconfirmedRead running);
      let s : State := { s with pse := { s.pse with unconfirmed := some (2, 31) } };
      ready s (.client .pse) = true ∧ s.pse.pass = some .unconfirmedRead ∧ s.pse.unconfirmed = some (2, 31))
    ∧ (let s := pseFlight 16 .read (inPass .holdRead running);
      ready s (.client .pse) = true ∧ s.pse.pass = some .holdRead ∧ s.eng.config = some config) := by decide +kernel

/-- Chapter 6.7: the write had landed, or it had not. -/
theorem test_unconfirmed_bank :
    let s := pseFlight 28 .read (inPass .unconfirmedRead running)
    let s : State := { s with pse := { s.pse with unconfirmed := some (2, 31), bankOrder := [2, 0, 1] } }
    (after (.unconfirmedBankReadAnswer (.word (publicationWord 2 31))) s).pse.bankOrder = [0, 1, 2]
    ∧ (after (.unconfirmedBankReadAnswer (.word (publicationWord 1 30))) s).pse.bankOrder = [2, 0, 1]
    ∧ (after (.holdWordReadAnswer (.word 3)) (pseFlight 16 .read (inPass .holdRead
        { s with pse := { s.pse with bankOrder := [0, 1, 2] } }))).pse.workBank = 0 := by decide +kernel

/-- Published bank 1 and held bank 0: bank 2 is a candidate, published before or never. -/
theorem test_meets_WorkBankIsTheOldestCandidate :
    (let p : Pse := { Pse.powerOn with bankOrder := [2, 0, 1] };
      some (2 : Fin 3) ≠ p.publishedBank ∧ some (2 : Fin 3) ≠ some 0 ∧ p.chooseBank (some 0) ∈ p.bankOrder)
    ∧ (let p : Pse := { Pse.powerOn with bankOrder := [0, 1] };
      some (2 : Fin 3) ≠ p.publishedBank ∧ (2 : Fin 3) ∉ p.bankOrder) := by decide +kernel

/-- The four writes of the FILLING header; point 0 UNUSED. -/
theorem test_meets_FillingHeaderAnswered :
    ([(0 : Fin 4), 1, 2, 3].all (fun k =>
      let s := pseFlight (1536 + 4 * k.val) (.write 1) (inPass (.fillingHeader k) running)
      ready s (.client .pse) && s.pse.pass == some (.fillingHeader k) && s.eng.config == some config)) = true
    ∧ running.ptb.points[(0 : Fin 256)].definition = none := by decide +kernel

theorem test_filling_header :
    [(0 : Fin 4), 1, 2, 3].map (fun k =>
      (after (.fillingHeaderWriteAnswer .done)
        (pseFlight 1536 (.write 1) (inPass (.fillingHeader k)
          { running with pse := { running.pse with passNumber := 9 } }))).bip.inFlight.map (fun a => (a.offset, a.op)))
      = [some (1540, .write 9), some (1544, .write 0), some (1548, .write 0), some (1552, .write 0)] := by decide +kernel

/-- The point of chapter 3.7, bound to the curve of chapter 1.4. -/
def loopPoint : PointDef := ⟨.raw 5 .s16 (int (-100)) 32000, some 3, .forward, none, 4⟩

/-- The pass at point 5 of chapter 3.7, its history of one value. -/
def atPoint5 : State :=
  pseFlight 1108 .read (inPass (.inputRead 5)
    (withPoint 5 ⟨some loopPoint, [12500], 12500, .usable⟩
      (withBody 3 ⟨.linear2 6400 32000 0 25000 false, true, []⟩ running)))

/-- An UNUSED point; a RAW point at the last word of the input image, and one past it; an aggregate of two. -/
theorem test_meets_PointReached :
    running.ptb.points[(255 : Fin 256)].definition = none
    ∧ (atPoint5.ptb.points[(5 : Fin 256)].definition = some loopPoint ∧ 5 < config.inputCount)
    ∧ (let d : PointDef := { loopPoint with source := .raw 64 .u16 0 1 };
      (withPoint 6 ⟨some d, [], 0, .notYet⟩ running).ptb.points[(6 : Fin 256)].definition = some d
        ∧ d.source = .raw 64 .u16 0 1 ∧ config.inputCount ≤ 64)
    ∧ (let d : PointDef := { loopPoint with source := .aggregate 0 2 .mean };
      (withPoint 2 ⟨some d, [], 0, .notYet⟩ running).ptb.points[(2 : Fin 256)].definition = some d) := by decide +kernel

/-- The members of chapter 3.7's aggregate, and their four functions. -/
theorem test_aggregate_example :
    let s := withPoint 16 ⟨some loopPoint, [], 500, .usable⟩ (withPoint 17 ⟨some loopPoint, [], 520, .usable⟩
      (withPoint 18 ⟨some loopPoint, [], 610, .unusable⟩ running))
    s.ptb.members 16 4 = [500, 520]
    ∧ [AggregateFn.mean, .sum, .min, .max].map (fun f => aggregateSource f [500, 520])
      = [.value 510 .good, .value 1020 .good, .value 500 .good, .value 520 .good]
    ∧ aggregateSource .mean [-7, 0] = .value (int (-3)) .good
    ∧ aggregateSource .mean [] = .unusable .noSource := by decide +kernel

theorem test_meets_InputWordAnswered :
    atPoint5.pse.pass = some (.inputRead 5) ∧ ready atPoint5 (.client .pse) = true
    ∧ atPoint5.eng.config = some config ∧ atPoint5.ptb.points[(5 : Fin 256)].definition = some loopPoint
    ∧ loopPoint.source = .raw 5 .s16 (int (-100)) 32000 := by decide +kernel

/-- Passes 2 and 3 of chapter 3.7. -/
theorem test_input_word :
    (let t := after (.inputReadAnswer (.word 19328)) atPoint5;
      (t.ptb.points[(5 : Fin 256)].history, t.ptb.points[(5 : Fin 256)].lastOutput, t.bip.inFlight)
        = ([12500, 12625], 12562, some ⟨.client .pse, 1536 + 16 + 40, .write 12562⟩))
    ∧ (let t := after (.inputReadAnswer (.word 32767)) atPoint5;
      (t.ptb.points[(5 : Fin 256)].usability, t.pse.pass, t.evr.work)
        = (.unusable, some (.entryValue 5 12500 4), .writing 1 ⟨.pointBad, 5, 12500, 4, 0⟩ 0 none)) := by decide +kernel

/-- Both words of an entry, of the first point and of the last. -/
theorem test_meets_EntryWriteAnswered :
    [(0 : Fin 256), 254, 255].all (fun i =>
      let s := pseFlight (1552 + 8 * i.val) (.write 7) (inPass (.entryValue i 7 1) running)
      let s' := pseFlight (1556 + 8 * i.val) (.write 1) (inPass (.entryQuality i 7 1) running)
      ready s (.client .pse) && s.pse.pass == some (.entryValue i 7 1)
        && ready s' (.client .pse) && s'.pse.pass == some (.entryQuality i 7 1)) = true := by decide +kernel

theorem test_entry_write :
    (let t := after (.entryWriteAnswer .done) (pseFlight 1552 (.write 7) (inPass (.entryValue 0 7 1) running));
      t.bip.inFlight = some ⟨.client .pse, 1556, .write 1⟩)
    ∧ (let t := after (.entryWriteAnswer .done) (pseFlight 3596 (.write 0) (inPass (.entryQuality 255 0 0) running));
      t.bip.inFlight = some ⟨.client .pse, 24, .read⟩ ∧ t.pse.activeCount = 0) := by decide +kernel

/-- The end stamp, then the four writes of the COMPLETE header. -/
theorem test_meets_CompleteHeaderIsWrittenStateLast :
    (let s := pseFlight 24 .read (inPass .endStamp running);
      ready s (.client .pse) = true ∧ s.pse.pass = some .endStamp ∧ s.eng.config = some config)
    ∧ ([(0 : Fin 4), 1, 2, 3].all (fun k =>
      let s := pseFlight 1540 (if k = 3 then .writeState 2 else .write 1) (inPass (.completeHeader k) running)
      ready s (.client .pse) && s.pse.pass == some (.completeHeader k))) = true := by decide +kernel

theorem test_complete_header :
    (let t := after (.endStampReadAnswer (.word 4)) (pseFlight 24 .read (inPass .endStamp running));
      t.pse.inputChanged = true ∧ t.pse.pass = some (.completeHeader 0))
    ∧ [(0 : Fin 4), 1, 2, 3].map (fun k =>
      (after (.completeHeaderWriteAnswer .done) (pseFlight 1540 (.write 9) (inPass (.completeHeader k)
        { running with pse := { running.pse with
            passNumber := 7, runningCheck := 0x1234, activeCount := 3, workBank := 2 } }))).bip.inFlight.map
        (fun a => (a.offset, a.op)))
      = [some (1536 + 4128 + 8, .write 0x1234), some (1536 + 4128 + 12, .write 3), some (1536 + 4128, .writeState 2),
        some (28, .write 0x1E)] := by decide +kernel

/-- The publication word awaited in a pass with a number, the last number among them; a stopping engine; a held edit. -/
def publishing (n : Word) : State :=
  pseFlight 28 (.write 4) (inPass .publicationWrite { running with pse := { running.pse with passNumber := n } })

theorem test_meets_PublicationAnswered :
    ([(1 : Word), 0xFFFFFFFF].all (fun n =>
      ready (publishing n) (.client .pse) && (publishing n).pse.pass == some .publicationWrite)) = true
    ∧ (inState .stopping (publishing 1)).eng.engine = .stopping ∧ (publishing 1).pse.pendingTrigger = false
    ∧ (publishing 1).rqh.waitingEdit = none
    ∧ (let s := holding (request 3 [] (.awaitApply (.delete 63) false)) (publishing 1);
      ready s (.client .pse) = true ∧ s.rqh.held = some (request 3 [] (.awaitApply (.delete 63) false)))
    ∧ (let s : State := { publishing 1 with pse := { (publishing 1).pse with pendingTrigger := true } };
      ready s (.client .pse) = true ∧ s.pse.pendingTrigger = true) := by decide +kernel

/-- Lost triggers to report, the passes that go on and that halt. -/
theorem test_meets_a_publication_with_lost_triggers :
    [(1 : Word), 0xFFFFFFFF].all (fun n =>
      let s : State := { publishing n with pse := { (publishing n).pse with overrunCount := 3, pendingTrigger := true } }
      ready s (.client .pse) && s.pse.overrunCount != 0 && s.rqh.waitingEdit.isNone) = true := by decide +kernel

theorem test_publication :
    (let t := after (.publicationWordWriteAnswer .done) (publishing 1);
      (t.pse.bankOrder, t.pse.published, t.eng.cause, t.eng.engine, t.pse.pass) = ([0], 1, 2, .running, none))
    ∧ (after (.publicationWordWriteAnswer .done) (publishing 0xFFFFFFFF)).eng.engine = .idle
    ∧ (after (.publicationWordWriteAnswer .done) (holding (request 3 [] (.awaitApply (.delete 63) false))
        (publishing 1))).rqh.held = some (request 3 [] (.awaitApply (.delete 63) true)) := by decide +kernel

/-- A released edit, in a pass and between passes. -/
theorem test_meets_ReleasedApplyStepIsTakenBetweenPasses :
    (let s := holding (request 7 [] (.awaitApply (.clearPoint 0) true)) (inPass .endStamp running);
      s.rqh.held = some (request 7 [] (.awaitApply (.clearPoint 0) true)) ∧ s.pse.pass ≠ none)
    ∧ (let s := holding (request 7 [] (.awaitApply (.clearPoint 0) true)) running;
      s.pse.pass = none ∧ s.waitsAdmitted = true ∧ s.placed = true) := by decide +kernel

theorem test_released_apply_step :
    (let t := after .releasedApplyStep (holding (request 7 [] (.awaitApply (.clearPoint 0) true)) running);
      finishingOf t = some (.ok, [0, 0, 0, 0, 0, 0]) ∧ t.rqh.effectTaken = true
        ∧ t.bip.inFlight = some ⟨.client .rqh, 228, .write 0⟩)
    ∧ (after .releasedApplyStep (holding (request 7 [] (.awaitApply (.clearPoint 0) true))
        (inPass .endStamp running))).rqh.held = some (request 7 [] (.awaitApply (.clearPoint 0) false)) := by decide +kernel

/-! ### Requests -/

/-- A slot's word 0, POSTED. -/
def posted (ticket : Nat) (kind : Nat) : Word := Word.ofNat (65536 * ticket + 256 * kind + 1)

/-- The words 0 of the slots 0 to 3; the others FREE. -/
def heads4 (a b c d : Word) : Vector Word 16 := ((((Vector.replicate 16 (0 : Word)).set 0 a).set 1 b).set 2 c).set 3 d

/-- Slot 0, slot 14 and slot 15, the expected ticket 100. -/
def scanAt (k : Fin 16) (heads : Vector Word 16) : State :=
  rqhFlight (64 + 64 * k.val) .read (scanning (.reading k heads)
    { running with rqh := { running.rqh with expectedTicket := 100 } })

/-- A scan's reads; after the last a stale slot at both ends of its range, a candidate, a ticket ahead at both ends of its
range, and none of these. -/
theorem test_meets_ScanReadAnswered :
    ([(0 : Fin 16), 14, 15].all (fun k => ready (scanAt k (Vector.replicate 16 0)) (.client .rqh))) = true
    ∧ ([99, 100 + 65536 - 32768].all (fun t => ticketClass 100 (headTicket (posted t 0)) == .stale)) = true
    ∧ ticketClass 100 (headTicket (posted 100 0)) = .candidate
    ∧ ([101, 100 + 32767].all (fun t => ticketClass 100 (headTicket (posted t 0)) == .ahead)) = true
    ∧ isPosted (posted 100 0) = true ∧ isPosted 0 = false := by decide +kernel

theorem test_scan :
    (after (.scanReadAnswer (.word 7)) (scanAt 0 (Vector.replicate 16 0))).bip.inFlight
      = some ⟨.client .rqh, 128, .read⟩
    ∧ ([heads4 (posted 101 0) (posted 100 6) (posted 99 0) (posted 98 0), heads4 (posted 101 0) (posted 100 6) 0 0,
        heads4 (posted 101 0) 0 0 0].map (fun h =>
      let t := after (.scanReadAnswer (.word 0)) (scanAt 15 h)
      (t.bip.inFlight.map (fun a => (a.offset, a.op)), t.rqh.waitingForTicket)))
      = [(some (64 + 128 + 36, .write 13), false), (some (64 + 64 + 4, .read), false), (none, true)] := by decide +kernel

/-- A stale refusal in slot 2 at each of its writes. -/
def staleAt (k : Fin 8) : State :=
  rqhFlight 228 (.write 13) (scanning (.staleWrite (heads4 (posted 101 0) (posted 100 6) (posted 99 3) (posted 98 0)) 2 k)
    { running with rqh := { running.rqh with expectedTicket := 100 } })

theorem test_meets_StaleRefusalAnswered :
    [(0 : Fin 8), 1, 5, 6, 7].all (fun k => ready (staleAt k) (.client .rqh)) = true := by decide +kernel

theorem test_stale_refusal :
    [(0 : Fin 8), 1, 5, 6, 7].map (fun k =>
      (after (.staleRefusalWriteAnswer .done) (staleAt k)).bip.inFlight.map (fun a => (a.offset, a.op)))
      = [some (232, .write 100), some (236, .write 0), some (252, .write 0), some (192, .write 0x00630304),
        some (64 + 192 + 36, .write 13)]
    ∧ (after (.staleRefusalWriteAnswer .done) (staleAt 7)).rqh.refused = 1 := by decide +kernel

/-- The take of slot 2 at its first, its last but one and its last parameter word, and at the TAKEN write. -/
theorem test_meets_TakeAnswered :
    ([(0 : Fin 8), 6, 7].all (fun k =>
      ready (rqhFlight 196 .read (scanning (.paramRead 2 (posted 102 6) k (words8 [])) running)) (.client .rqh))) = true
    ∧ ready (rqhFlight 192 (.write 0) (scanning (.takenWrite 2 (posted 102 6) (words8 [])) running)) (.client .rqh) = true := by
  decide +kernel

theorem test_parameter_words :
    [(0 : Fin 8), 6, 7].map (fun k =>
      (after (.parameterReadAnswer (.word 9)) (rqhFlight 196 .read
        (scanning (.paramRead 2 (posted 102 6) k (words8 [])) running))).bip.inFlight.map (fun a => (a.offset, a.op)))
      = [some (200, .read), some (224, .read), some (192, .write 0x00660602)] := by decide +kernel

theorem test_taken :
    let t := after (.takenWriteAnswer .done)
      (rqhFlight 192 (.write 0) (scanning (.takenWrite 2 (posted 102 6) (words8 [])) running))
    t.rqh.held = some (request 6 [] .taken) ∧ t.rqh.expectedTicket = 1
    ∧ t.bip.inFlight = some ⟨.client .rqh, 40, .write 102⟩ := by decide +kernel

/-- What a request of this kind is finished with, when it is finished at once. -/
def answered (kind : Byte) (params : List Word) (s : State) : Option (ResultCode × List Word) :=
  finishingOf (after (.lastTakenTicketWriteAnswer .done) (takeEnds kind params s))

/-- Every kind, those no request has among them. -/
theorem test_meets_AnsweredAtOnce :
    [(0 : Byte), 1, 2, 3, 4, 5, 6, 7, 8, 9, 10, 255].all (fun k =>
      let s := takeEnds k [63] running
      ready s (.client .rqh) && s.rqh.scan == some .ticketWrite && s.rqh.held == some (request k [63] .taken)) = true := by
  decide +kernel

theorem test_answered_at_once :
    let s := withBody 3 ⟨.linear2 6400 32000 0 25000 true, true, []⟩
      { running with pse := { running.pse with passNumber := 7, skipped := 2 } }
    answered 0 [] s = some (.ok, [7, 0, 0, 0, 0, 0]) ∧ answered 10 [] s = some (.badKind, [10, 0, 0, 0, 0, 0])
    ∧ answered 9 [1] s = some (.ok, [0, 2, 0, 0, 0, 7]) ∧ answered 4 [64] s = some (.badParam, [0, 0, 0, 0, 0, 0])
    ∧ answered 4 [3] s = some (.ok, [0x10001, 0, 3, 0, 0, 96])
    ∧ answered 4 [63] s = some (.ok, [0, 0, 0, 0, 0, 96]) := by decide +kernel

/-- Each refusal of the four kinds at the ends of its range. -/
theorem test_edit_requests :
    (let s := withBody 3 ⟨.ratio 5 8 0, true, []⟩ running;
      let s1 : State := { s with clb := s.clb.setSlot 3 { s.clb.slots[(3 : Fin 64)] with forwardCount := 2 } };
      [answered 3 [64] s, answered 3 [63] s, answered 3 [3] s1, answered 3 [3] s]
        = [some (.badParam, [0, 0, 0, 0, 0, 0]), some (.ok, [96, 0, 0, 0, 0, 0]), some (.inUse, [2, 0, 0, 0, 0, 0]),
          some (.ok, [96, 0, 0, 0, 0, 0])])
    ∧ ([[64, 0, 1, 0, 1, 0], [63, 1, 0, 0, 1, 0], [63, 0, 1, 2, 1, 0], [63, 0, 1, 1, 0, 0], [63, 0, 1, 1, 16, 0]].map (fun l => answered 5 l running)
      = [some (.badParam, [1, 0, 0, 0, 0, 0]), some (.badParam, [2, 0, 0, 0, 0, 0]), some (.badParam, [3, 0, 0, 0, 0, 0]),
        some (.badParam, [4, 0, 0, 0, 0, 0]), some (.badParam, [4, 0, 0, 0, 0, 0])])
    ∧ ([[256], [255]].map (fun l => answered 7 l running)
      = [some (.badParam, [0, 0, 0, 0, 0, 0]), some (.ok, [0, 0, 0, 0, 0, 0])])
    ∧ ([[2, 0], [0, 256], [1, 64]].map (fun l => answered 8 l running)
      = [some (.badParam, [1, 0, 0, 0, 0, 0]), some (.badParam, [2, 0, 0, 0, 0, 0]), some (.badParam, [3, 0, 0, 0, 0, 0])]) := by decide +kernel

/-- In a pass the same requests wait; an ACTIVE point and a LIVE slot. -/
theorem test_meets_EditRequestsAreChecked :
    ([((3 : Byte), [3]), (5, [63, 0, 1, 1, 15, 1]), (7, [5]), (8, [0, 255]), (8, [1, 63])].all (fun p =>
      let s := takeEnds p.1 p.2 (inPass .endStamp atPoint5)
      ready s (.client .rqh) && (after (.lastTakenTicketWriteAnswer .done) s).rqh.deferredApply)) = true
    ∧ atPoint5.clb.slots[(3 : Fin 64)].body ≠ none ∧ atPoint5.clb.slots[(3 : Fin 64)].forwardCount = 0
    ∧ atPoint5.ptb.points[(5 : Fin 256)].definition ≠ none := by decide +kernel

/-- A SET_POINT request that fails each reason alone, in their order; the last one passes. -/
def setPointCases : List (List Word) :=
  [[256, 0, 63, 2, 0, 1, 0xFF, 0x1FF], [255, 2, 63, 2, 0, 1, 0xFF, 0x1FF], [255, 0, 63, 3, 0, 1, 0xFF, 0x1FF],
    [255, 0, 64, 2, 0, 1, 0xFF, 0x1FF], [255, 0, 63, 1, 0, 65536, 0xFF, 0x1FF], [255, 1, 0, 17, 0, 0, 0xFF, 0x1FF],
    [255, 1, 0, 16, 4, 0, 0xFF, 0x1FF], [255, 1, 240, 16, 3, 0, 0xFF, 0x1FF], [255, 0, 63, 2, 0, 1, 0x40, 0x1FF],
    [255, 0, 63, 2, 0, 1, 0x200, 0x1FF], [255, 0, 63, 2, 0, 1, 0x1FF, 0x1FF], [255, 0, 63, 2, 0, 1, 0xFF, 0x140],
    [255, 0, 63, 2, 0, 1, 0xFF, 0x104], [255, 0, 63, 2, 0, 1, 0xFF, 0x11FF], [255, 1, 239, 16, 3, 0, 0xFF, 0x10FF]]

theorem test_set_point_reasons :
    setPointCases.map (fun l => (answered 6 l running).map (fun r => (r.1, r.2.take 2)))
      = [some (.badParam, [1, 0]), some (.badParam, [2, 0]), some (.badParam, [3, 0]), some (.badParam, [4, 64]),
        some (.badParam, [5, 0]), some (.badParam, [6, 0]), some (.badParam, [7, 0]), some (.badParam, [8, 0]),
        some (.badParam, [9, 0]), some (.badParam, [10, 0]), some (.badParam, [11, 0]), some (.badParam, [12, 0]),
        some (.badParam, [13, 0]), some (.badParam, [14, 0]), some (.ok, [0, 0])] := by decide +kernel

/-- The hypotheses hold for each of these; INVERSE to a ROOT body, to a RATIO body and to an EMPTY slot. -/
theorem test_meets_SetPointIsChecked :
    (setPointCases.all (fun l => ready (takeEnds 6 l running) (.client .rqh))) = true
    ∧ (let s := withBody 3 ⟨.root 0 0 1 0, false, []⟩ (withBody 4 ⟨.ratio 5 8 0, true, []⟩ running);
      [0x103, 0x104, 0x105].map (fun c => answered 6 [0, 0, 63, 2, 0, 1, c, 0x1FF] s)
        = [some (.notInvertible, [3, 0, 0, 0, 0, 0]), some (.ok, [0, 0, 0, 0, 0, 0]), some (.ok, [0, 0, 0, 0, 0, 0])]) := by
  decide +kernel

/-- A CONFIGURE request that fails each reason, at the ends of the ranges, in their order; chapter 11.1's passes. -/
def configureCases : List (List Word) :=
  [[1088, 0, 1536, 8192, 64, 100, 2], [1088, 1025, 1536, 8192, 64, 100, 2], [1088, 64, 1536, 8192, 15, 100, 2],
    [1088, 64, 1536, 8192, 1025, 100, 2], [1088, 64, 1536, 8192, 64, 0, 2], [1088, 64, 1536, 8192, 64, 65536, 2],
    [1088, 64, 1536, 8192, 64, 100, 3], [1089, 64, 1538, 8192, 64, 100, 2], [1088, 64, 1536, 8193, 64, 100, 2],
    [65284, 64, 1536, 8192, 64, 100, 2], [1088, 64, 1536, 64516, 64, 100, 2], [1084, 64, 1536, 8192, 64, 100, 2],
    [1088, 64, 1340, 8192, 64, 100, 2], [1088, 64, 1536, 7724, 64, 100, 2], [1088, 64, 1536, 8192, 64, 100, 2]]

theorem test_configure_reasons :
    configureCases.map (fun l => (answered 1 l attached).map (fun r => (r.1, r.2.take 3)))
      = [some (.badParam, [1, 0, 0]), some (.badParam, [1, 0, 0]), some (.badParam, [2, 0, 0]), some (.badParam, [2, 0, 0]),
        some (.badParam, [3, 0, 0]), some (.badParam, [3, 0, 0]), some (.badParam, [4, 0, 0]), some (.badParam, [5, 2, 0]),
        some (.badParam, [5, 4, 0]), some (.badParam, [6, 2, 65536]), some (.badParam, [6, 4, 65536]),
        some (.badParam, [7, 1, 2]), some (.badParam, [7, 2, 3]), some (.badParam, [7, 3, 4]), none] := by decide +kernel

/-- A CONFIGURE in IDLE and in RUNNING; its publication word's answer. -/
theorem test_meets_ConfigureIsCheckedAndStored :
    (configureCases.all (fun l => ready (takeEnds 1 l attached) (.client .rqh))) = true
    ∧ answered 1 [1088, 64, 1536, 8192, 64, 100, 2] running = some (.wrongState, [3, 0, 0, 0, 0, 0])
    ∧ (let s := pseFlight 28 (.write 3) (holding (request 1 [] (.configureWrite config true 9)) attached);
      ready s (.client .pse) = true
        ∧ finishingOf (after (.configurePublicationWriteAnswer .done) s) = some (.ok, [1, 9, 0, 0, 0, 0])
        ∧ (after (.configurePublicationWriteAnswer .done) s).eng.config = some config) := by decide +kernel

/-- LOAD_CURVE's parameters at the ends of their ranges, in a window of 65,536 bytes. -/
theorem test_load_parameters :
    [[64, 0, 6], [63, 2, 6], [63, 0, 5], [63, 0, 132], [63, 65516, 6], [63, 65512, 6]].map
      (fun l => (answered 2 l attached).map (fun r => (r.1, r.2.take 1)))
      = [some (.badParam, [1]), some (.badParam, [2]), some (.badParam, [3]), some (.badParam, [3]),
        some (.outOfWindow, [65536]), none] := by decide +kernel

/-- The RATIO image of chapter 10.5, its check word last. -/
def ratioImage : List Word :=
  let words : List Word := [0x43560002, 0, 5, 8, 0xFFFFFE70]
  words ++ [(checkOfWords words).setWidth 32]

/-- An image being read: the words so far, for slot 63. -/
def imaging (words : List Word) (s : State) : State :=
  let s := rqhFlight (12288 + 4 * words.length) .read (holding (request 2 [] .imageRead) s)
  { s with clb := { s.clb with building := some ⟨63, 12288, 6, words, none⟩ } }

/-- The take's end; the first word, the last but one and the last; the failures. -/
theorem test_meets_LoadCurveReadsItsImage :
    ready (takeEnds 2 [63, 65512, 6] attached) (.client .rqh) = true
    ∧ ([0, 4, 5].all (fun n => ready (imaging (ratioImage.take n) attached) (.client .rqh))) = true := by decide +kernel

theorem test_image_reads :
    (after (.imageReadAnswer (.word 9)) (imaging (ratioImage.take 4) attached)).bip.inFlight
      = some ⟨.client .rqh, 12308, .read⟩
    ∧ finishingOf (after (.imageReadAnswer .error) (imaging [] attached)) = some (.busError, [12288, 1, 0, 0, 0, 0])
    ∧ finishingOf (after .busTimeout (imaging [] attached)) = some (.busError, [12288, 2, 0, 0, 0, 0])
    ∧ finishingOf (after (.imageReadAnswer (.word (ratioImage.getD 5 0))) (imaging (ratioImage.take 5) attached))
      = some (.ok, [0, 96, 1, 0, 0, 0])
    ∧ (after (.imageReadAnswer (.word (ratioImage.getD 5 0))) (imaging (ratioImage.take 5) attached)).clb.slots[(63 : Fin 64)].body
      = some ⟨.ratio 5 8 0xFFFFFE70, true, []⟩ := by decide +kernel

/-- A whole image of these words, its check word added. -/
def whole (words : List Word) : Building :=
  ⟨63, 12288, words.length + 1, words ++ [(checkOfWords words).setWidth 32], none⟩

/-- What the checks of a whole image answer: 0 and the code and words of the refusal, or the kind of the body. -/
def checked (clb : Clb) (b : Building) : Nat × List Word :=
  match ({ clb with building := some b } : Clb).checkImage b with
  | .error r => (r.1.code, r.2)
  | .ok shape => (100 + shape.kindCode, [])

/-- Each check failing alone, in their order; then each kind passing. -/
theorem test_image_checks :
    [{ whole [0x43560002, 0, 5, 8, 0] with buffer := [0x43560002, 0, 5, 8, 0, 0xFFFF0000] },
      whole [0x43570002, 0, 5, 8, 0], whole [0x43560005, 0, 5, 8, 0], whole [0x43560104, 0, 1, 1], whole [0x43560002, 0, 5, 8],
      whole [0x43560002, 0, 65536, 0, 0], whole [0x43560002, 0, 65535, 0, 0], whole [0x43560003, 0, 0, 0x80000000, 0, 0],
      whole [0x43560003, 0, 0, 0, 0, 0], whole [0x43560001, 0, 3, 3, 0, 0],
      whole [0x43560304, 0, 1, 0, 2, 0, 2, 0]].map
        (fun b => ((checked Clb.powerOn b).1, (checked Clb.powerOn b).2.drop (if (checked Clb.powerOn b).1 = 8 then 2 else 0)))
      = [(8, []), (9, [1, 0]), (9, [2, 0]), (9, [3, 0]), (9, [4, 6]), (9, [5, 2]), (9, [5, 3]), (9, [5, 3]), (9, [5, 4]),
        (9, [6, 3]), (9, [7, 6])]
    ∧ ([whole [0x43560001, 1, 3, 4, 0, 0], whole [0x43560002, 0, 5, 8, 0], whole [0x43560003, 0, 0, 0, 1, 0],
        whole [0x43560204, 0, 1, 0, 2, 0]].map (checked Clb.powerOn)
      = [(101, []), (102, []), (103, []), (104, [])])
    ∧ (checked (Clb.powerOn.setSlot 63 ⟨none, 0, 1⟩) (whole [0x43560003, 0, 0, 0, 1, 0]) = (7, [1]))
    ∧ (checked { Clb.powerOn with free := [] } (whole [0x43560204, 0, 1, 0, 2, 0]) = (4, [1, 0])) := by decide +kernel

theorem test_meets_CurveImageIsChecked :
    (whole [0x43560002, 0, 5, 8, 0]).body = none
    ∧ (whole [0x43560002, 0, 5, 8, 0]).buffer.getLastD 0
      = (checkOfWords (whole [0x43560002, 0, 5, 8, 0]).buffer.dropLast).setWidth 32 := by decide +kernel

/-- The finishing of a request at its first write, its sixth, its seventh and its last. -/
def finishingAt (code : ResultCode) (k : Fin 8) : State :=
  rqhFlight 228 (.write 0) (holding (request 3 [] (.finishing code (resultWords [1, 2, 3, 4, 5, 6]) k)) configured)

theorem test_meets_FinishingAnswered :
    [(0 : Fin 8), 5, 6, 7].all (fun k => ready (finishingAt .ok k) (.client .rqh) && (finishingAt .ok k).rqh.scan.isNone)
      = true := by decide +kernel

theorem test_finishing :
    [(0 : Fin 8), 5, 6, 7].map (fun k =>
      (after (.finishingWriteAnswer .done) (finishingAt .ok k)).bip.inFlight.map (fun a => (a.offset, a.op)))
      = [some (232, .write 1), some (252, .write 6), some (192, .write 0x00660303), some (64, .read)]
    ∧ (after (.finishingWriteAnswer .done) (finishingAt .inUse 7)).rqh.refused = 1
    ∧ (after (.finishingWriteAnswer .done) (finishingAt .inUse 7)).eng.cause = 1 := by decide +kernel

/-! ### The recorder -/

/-- An event of a point. -/
def event (i : Byte) : Event := ⟨.pointBad, i, 500, 4, 7⟩

/-- EVR with these counts, in RUNNING with a strip of 16. -/
def strip (w a dropped : Word) (k : EvrWork) (queue : List Event) : State :=
  { running with evr := { Evr.powerOn with w := w, a := a, pendingDropped := dropped, work := k, queue := queue } }

/-- The acknowledge word awaited with the view full, for an event and for a LOST record before it. -/
theorem test_meets_AckWordAnswered :
    [false, true].all (fun lost =>
      let s := evrFlight 20 .read (strip 16 0 2 (.readingAck lost (event 7)) [])
      ready s (.client .evr) && s.evr.work == .readingAck lost (event 7) && s.eng.config == some config
        && s.evr.w != 0xFFFFFFFF && s.evr.queue.isEmpty) = true := by decide +kernel

/-- The rows of chapter 7.7: still full, so dropped; room, so the LOST record and the record; a refused acknowledgement. -/
theorem test_ack_word :
    (let t := after (.ackWordReadAnswer (.word 0)) (evrFlight 20 .read (strip 16 0 0 (.readingAck false (event 7)) []));
      (t.evr.work, t.evr.pendingDropped, t.evr.dropped) = (.idle, 1, 1))
    ∧ (let t := after (.ackWordReadAnswer (.word 12)) (evrFlight 20 .read (strip 16 0 2 (.readingAck true (event 7)) []));
      (t.evr.work, t.evr.a) = (.writing 17 ⟨.lost, 255, 2, 0, 0⟩ 0 (some (event 7)), 12)
        ∧ t.bip.inFlight = some ⟨.client .evr, 8196, .write 0x0000FF0A⟩)
    ∧ (let t := after (.ackWordReadAnswer (.word 40)) (evrFlight 20 .read (strip 31 15 0 (.readingAck false (event 7)) []));
      (t.evr.a, t.evr.ackInvalid, t.evr.dropped) = (15, true, 1)) := by decide +kernel

/-- The five writes of a record; the next event in the queue, with drops pending and without, and the one behind a LOST record. -/
theorem test_meets_RecordWordAnswered :
    ([(0 : Fin 5), 1, 2, 3, 4].all (fun k =>
      let s := evrFlight 8196 (.write 5) (strip 4 0 0 (.writing 5 (event 7) k none) [])
      ready s (.client .evr) && s.evr.work == .writing 5 (event 7) k none && s.eng.config == some config)) = true
    ∧ ([((0 : Word), [event 8]), (3, [event 8])].all (fun p =>
      let s := evrFlight 36 (.write 5) (strip 5 0 p.1 (.writing 5 (event 7) 4 none) p.2)
      ready s (.client .evr) && s.evr.w != 0xFFFFFFFF && s.evr.queue == [event 8])) = true
    ∧ (let s := evrFlight 36 (.write 31) (strip 31 15 0 (.writing 31 (event 7) 4 (some (event 9))) []);
      ready s (.client .evr) = true ∧ ¬((s.evr.w - s.evr.a).toNat < config.stripCapacity)) := by decide +kernel

/-- The record that took the greatest number, an event behind it and in the queue. -/
theorem test_meets_the_last_record :
    let s := evrFlight 36 (.write 0xFFFFFFFF) (strip 0xFFFFFFFF 0xFFFFFFFF 0xFFFFFFFE
      (.writing 0xFFFFFFFF ⟨.lost, 255, 3, 0, 7⟩ 4 (some (event 9))) [event 8])
    ready s (.client .evr) = true ∧ s.evr.w = 0xFFFFFFFF
    ∧ (let t := after (.highWaterWriteAnswer .done) s;
      (t.evr.work, t.evr.queue, t.evr.pendingDropped, t.evr.dropped, t.eng.cause) = (.idle, [], 0xFFFFFFFF, 2, 4)) := by
  decide +kernel

theorem test_record_words :
    [(0 : Fin 5), 1, 2, 3].map (fun k =>
      (after (.recordWordWriteAnswer .done)
        (evrFlight 8196 (.write 5) (strip 4 0 0 (.writing 5 (event 7) k none) []))).bip.inFlight.map
          (fun a => (a.offset, a.op)))
      = [some (8264, .write 500), some (8268, .write 7), some (8256, .write 5), some (36, .write 5)] := by decide +kernel

/-- A record is finished: nothing behind it, an event in the queue with drops pending, and chapter 7.7's LOST record that took
the last room. -/
theorem test_high_water :
    (let t := after (.highWaterWriteAnswer .done) (evrFlight 36 (.write 5) (strip 5 0 0 (.writing 5 (event 7) 4 none) []));
      (t.evr.work, t.eng.cause) = (.idle, 4))
    ∧ (let t := after (.highWaterWriteAnswer .done)
        (evrFlight 36 (.write 5) (strip 5 0 3 (.writing 5 (event 7) 4 none) [event 8]));
      t.evr.work = .writing 6 ⟨.lost, 255, 3, 0, 0⟩ 0 (some (event 8)))
    ∧ (let t := after (.highWaterWriteAnswer .done)
        (evrFlight 36 (.write 31) (strip 31 15 0 (.writing 31 ⟨.lost, 255, 3, 0, 7⟩ 4 (some (event 9))) []));
      t.evr.work = .readingAck false (event 9) ∧ t.bip.inFlight = some ⟨.client .evr, 20, .read⟩) := by decide +kernel

/-- No configuration; 63 and 64 events in the queue; idle with room, and with the last number written. -/
theorem test_meets_EventsAreHanded :
    attached.eng.config = none
    ∧ (let s := strip 4 0 0 (.writing 5 (event 7) 0 none) (List.replicate 63 (event 8));
      s.evr.queue.length < 64 ∧ s.evr.work ≠ .idle)
    ∧ (let s := strip 4 0 0 (.writing 5 (event 7) 0 none) (List.replicate 64 (event 8)); 64 ≤ s.evr.queue.length)
    ∧ (let s := strip 4 0 0 .idle [];
      s.evr.work = .idle ∧ s.evr.queue = [] ∧ s.evr.w ≠ 0xFFFFFFFF ∧ s.evr.pendingDropped = 0
        ∧ (s.evr.w - s.evr.a).toNat < config.stripCapacity)
    ∧ (let s := strip 4 0 1 .idle []; s.evr.pendingDropped ≠ 0 ∧ (s.evr.w - s.evr.a).toNat < config.stripCapacity)
    ∧ (let s := strip 16 0 0 .idle []; config.stripCapacity ≤ (s.evr.w - s.evr.a).toNat ∧ s.evr.w ≠ 0xFFFFFFFF)
    ∧ (strip 0xFFFFFFFF 0xFFFFFFFF 0 .idle []).evr.w = 0xFFFFFFFF := by decide +kernel

theorem test_handed :
    ((strip 4 0 0 .idle []).hand (event 7)).evr.work = .writing 5 (event 7) 0 none
    ∧ ((strip 4 0 0 (.writing 5 (event 7) 0 none) (List.replicate 64 (event 8))).hand (event 9)).evr.dropped = 1
    ∧ ((strip 4 0 0 (.writing 5 (event 7) 0 none) (List.replicate 63 (event 8))).hand (event 9)).evr.queue.length = 64
    ∧ ((strip 4 0 2 .idle []).hand (event 9)).evr.work = .writing 5 ⟨.lost, 255, 2, 0, 0⟩ 0 (some (event 9))
    ∧ ((strip 16 0 2 .idle []).hand (event 9)).evr.work = .readingAck true (event 9)
    ∧ ((strip 0xFFFFFFFF 0xFFFFFFFF 0 .idle []).hand (event 9)).evr.dropped = 1 := by decide +kernel

/-! ### Apply steps -/

/-- A body under construction that is whole. -/
def built : State :=
  { atPoint5 with clb := { atPoint5.clb with building := some ⟨3, 12288, 6, ratioImage, some ⟨.ratio 5 8 0, true, []⟩⟩ } }

theorem test_meets_CurveEditsApply :
    (built.clb.building.bind Building.body).isSome = true
    ∧ (built.ptb.points[(5 : Fin 256)].definition.bind PointDef.curve) = some 3
    ∧ built.ptb.points[(6 : Fin 256)].definition = none := by decide +kernel

theorem test_install :
    let r := built.applyEdit (.install 3)
    r.state.clb.slots[(3 : Fin 64)].body = some ⟨.ratio 5 8 0, true, []⟩
    ∧ r.state.ptb.points[(5 : Fin 256)].history = [] ∧ r.state.ptb.points[(5 : Fin 256)].lastOutput = 12500
    ∧ r.events = [⟨.curveInstalled, 255, 0, 3, 0⟩] ∧ r.words = [0, 96, 1, 0] := by decide +kernel

theorem test_set_and_clear_point :
    let r := running.applyEdit (.setPoint 5 loopPoint)
    r.state.clb.slots[(3 : Fin 64)].forwardCount = 1 ∧ r.words = [0, 0]
    ∧ (r.state.applyEdit (.clearPoint 5)).state.clb.slots[(3 : Fin 64)].forwardCount = 0
    ∧ (r.state.applyEdit (.clearPoint 5)).words = [1, 0] := by decide +kernel

/-- Chapter 4.5: point 12 held, point 30 INSIDE, both with zone set 4. -/
def zoned (st : ZoneState) : State :=
  let p : Point := ⟨some { loopPoint with zoneSet := some 4 }, [], 7500, .usable⟩
  let s := withPoint 12 p (withPoint 30 p running)
  { s with
    zsv := ⟨s.zsv.sets.set 4 ⟨true, 1000, 8000, 200, 3, true⟩, (s.zsv.zones.set 12 ⟨st, false⟩).set 30 ⟨.inside, false⟩⟩ }

theorem test_acknowledge :
    (let r := (zoned .highHeld).applyEdit (.ackZone (.point 12));
      r.state.zsv.zones[(12 : Fin 256)] = ⟨.inside, false⟩ ∧ r.events = [⟨.highLeave, 12, 7500, 2, 0⟩] ∧ r.words = [1, 1, 0])
    ∧ (let r := (zoned .high).applyEdit (.ackZone (.zoneSet 4));
      r.state.zsv.zones[(12 : Fin 256)] = ⟨.high, true⟩ ∧ r.events = [] ∧ r.words = [1, 2, 0]) := by decide +kernel

theorem test_rewritten_zone_set :
    let r := (zoned .highHeld).applyEdit (.setZones 4 ⟨true, 1000, 9000, 200, 2, false⟩)
    r.state.zsv.zones[(12 : Fin 256)] = ⟨.inside, false⟩ ∧ r.events = [⟨.highLeave, 12, 7500, 2, 0⟩]
    ∧ r.words = [1, 2, 1, 0] := by decide +kernel

/-! ### Evaluations and laws: what their statements' hypotheses ask -/

theorem test_meets_QuotientsRoundHalvesAwayFromZero :
    (-28000 : Int) ≠ 0 ∧ roundedQuotient 1000000 (-28000) = -36 ∧ roundedQuotient (-29000000) (-28000) = 1036
    ∧ roundedQuotient 0 (-5) = 0 ∧ roundedQuotient (-125) 2 = -63 := by decide

/-- Each clause of LINEAR2, RATIO and ROOT: inside, at both ends and beyond, both directions, the cutoff and the root at it. -/
theorem test_meets_LinearRatioAndRootEvaluate :
    (6400 : Word) ≠ 32000 ∧ (0 : Word) ≠ 25000
    ∧ min (6400 : Word).toInt (32000 : Word).toInt ≤ (6400 : Word).toInt
    ∧ (6399 : Word).toInt < min (6400 : Word).toInt (32000 : Word).toInt
    ∧ max (6400 : Word).toInt (32000 : Word).toInt < (32001 : Word).toInt
    ∧ ((249 : Word).toInt - (200 : Word).toInt < ((50 : Word).toNat : Int))
    ∧ (((50 : Word).toNat : Int) ≤ (250 : Word).toInt - (200 : Word).toInt
      ∧ (707 : Int) * 707 ≤ 50 * 10000 ∧ 50 * 10000 < ((707 : Int) + 1) * (707 + 1)) := by decide

/-- Two pairs, ascending and descending, at the ends, beyond them and between them. -/
theorem test_meets_SegmentedEvaluates :
    ([(⟨10, 5⟩ : Pair)] ≠ [])
    ∧ (∀ (i : Nat) (h : i + 1 < [(⟨0, 0⟩ : Pair), ⟨10, 5⟩].length),
        [(⟨0, 0⟩ : Pair), ⟨10, 5⟩][i].x.toInt < [(⟨0, 0⟩ : Pair), ⟨10, 5⟩][i + 1].x.toInt)
    ∧ (∀ (i : Nat) (h : i + 1 < [(⟨0, 0⟩ : Pair), ⟨10, 5⟩].length),
        [(⟨0, 0⟩ : Pair), ⟨10, 5⟩][i].y.toInt < [(⟨0, 0⟩ : Pair), ⟨10, 5⟩][i + 1].y.toInt)
    ∧ (∀ (i : Nat) (h : i + 1 < [(⟨0, 5⟩ : Pair), ⟨10, 0⟩].length),
        [(⟨0, 5⟩ : Pair), ⟨10, 0⟩][i + 1].y.toInt < [(⟨0, 5⟩ : Pair), ⟨10, 0⟩][i].y.toInt) := by
  refine ⟨by decide, ?_, ?_, ?_⟩ <;> intro i h <;> simp only [List.length_cons, List.length_nil] at h <;>
    obtain rfl : i = 0 := by omega
  all_goals (revert h; decide)

theorem test_meets_ReadingsHistoriesAndUsability :
    (int (-100)).toInt ≤ (-100 : Int) ∧ (-101 : Int) < (int (-100)).toInt
    ∧ (let p : Point := ⟨none, [1, 2, 3], 2, .unusable⟩; 1 ≤ 4 ∧ p.history.length ≤ 4 ∧ p.usability = .unusable)
    ∧ (let p : Point := ⟨none, List.replicate 16 1, 1, .usable⟩; p.history.length = 16 ∧ p.usability ≠ .unusable) := by decide

/-- Sums in range, above it and below it; an EMPTY slot and a LIVE one; both source qualities. -/
theorem test_meets_aggregates_and_the_curve_step :
    ([(1 : Word), 2].map BitVec.toInt).sum ≤ 2147483647
    ∧ 2147483647 < ([(0x7FFFFFFF : Word), 1].map BitVec.toInt).sum
    ∧ ([(0x80000000 : Word), 0xFFFFFFFF].map BitVec.toInt).sum < -2147483648
    ∧ atPoint5.clb.slots[(2 : Fin 64)].body = none ∧ atPoint5.clb.slots[(3 : Fin 64)].body ≠ none
    ∧ curveStep atPoint5.clb { loopPoint with curve := some 2 } (.value 5 .good) = .unusable .noCurve
    ∧ curveStep atPoint5.clb loopPoint (.value 6400 .clamped) = .usable 0 .clamped := by decide +kernel

/-- One value in each class of chapter 4.5's set, at the bounds. -/
theorem test_meets_ZonesMoveByTheirTable :
    let z : ZoneSet := ⟨true, 1000, 8000, 200, 3, true⟩
    z.above 8001 = true ∧ z.above 8000 = false ∧ z.below 999 = true ∧ z.below 1000 = false
    ∧ z.returnedFromHigh 7800 = true ∧ z.returnedFromHigh 7801 = false ∧ z.returnedFromLow 1200 = true
    ∧ z.returnedFromLow 1199 = false ∧ Quality.good.isUsable = true ∧ Quality.badRaw.isUsable = false := by decide

theorem test_meets_TicketsAreClassified :
    ((65534 : BitVec 16).toNat + 65536 - (32766 : BitVec 16).toNat) % 65536 = 32768
    ∧ ((65534 : BitVec 16).toNat + 65536 - (32765 : BitVec 16).toNat) % 65536 = 32769
    ∧ ((65534 : BitVec 16).toNat + 65536 - (65533 : BitVec 16).toNat) % 65536 = 1 := by decide

/-- RUNNING with the command ATTEND in front: a state that meets every law. -/
def commanded : State := { running with pending := [.attend 0] }

theorem test_meets_every_kept_law_a_step : ∃ t, step commanded = .next t := ⟨_, rfl⟩

theorem commanded_point (i : Fin 256) : commanded.ptb.points[i] = Point.unused := by
  show (Vector.replicate 256 Point.unused)[i.val] = _
  simp

theorem commanded_slot (c : Fin 64) : commanded.clb.slots[c] = CurveSlot.empty := by
  show (Vector.replicate 64 CurveSlot.empty)[c.val] = _
  simp

theorem commanded_set (z : Fin 64) : commanded.zsv.sets[z] = ZoneSet.unwritten := by
  show (Vector.replicate 64 ZoneSet.unwritten)[z.val] = _
  simp

theorem commanded_zone (i : Fin 256) : commanded.zsv.zones[i] = PointZone.unsupervised := by
  show (Vector.replicate 256 PointZone.unsupervised)[i.val] = _
  simp

theorem test_meets_WindowWbaseAndTriggerLawsAreKept :
    Memory.wf startStamp.window = true ∧ startStamp.eng.wbaseLaw ∧ startStamp.pse.pendingLaw
    ∧ Memory.wf (Memory.writeWord (Memory.writeWord [] 4 9) 2 8) = true :=
  ⟨rfl, rfl, fun _ => rfl, by decide +kernel⟩

/-- Pass 7 at its publication, pass 6 the last published; then the publication left. -/
theorem test_meets_the_law_of_pass_numbers :
    commanded.numberLaw ∧ (publishing 7).numberLaw ∧ (publishing 7).pse.numbersAbove 6
    ∧ (publishing 7).pse.pass = some .publicationWrite
    ∧ (after (.publicationWordWriteAnswer .done) (publishing 7)).pse.pass ≠ some .publicationWrite :=
  ⟨⟨nofun, fun _ _ => by decide +kernel⟩, ⟨nofun, nofun⟩, ⟨by decide +kernel, fun _ => by decide +kernel⟩, rfl,
    by decide +kernel⟩

/-- Bank 0 published by pass 1, and the publication word read in a later pass. -/
def published (s : State) : State :=
  { s with
    pse := { s.pse with bankOrder := [0], passNumber := 1 }
    window := Memory.writeWord (Memory.writeWord (Memory.writeWord [] 0x2000001C 4) 0x20000600 2) 0x20000604 1 }

theorem test_meets_the_publication_guard :
    (published commanded).publicationGuard ∧ (published commanded).windowWord 28 = some 4 ∧ (4 : Word).toNat % 4 = (0 : Fin 3).val
    ∧ (published commanded).eng.config = some config := by
  refine ⟨⟨fun h => absurd rfl h, .inl rfl, ?_, ?_, ?_, ?_, ?_, rfl, ?_, ?_, ?_⟩, by decide +kernel, by decide, rfl⟩
  · exact fun a h => h.elim (fun h => nomatch (show none = some a from h)) (fun h => nomatch (show none = some a from h))
  · exact fun a w h => h.elim (fun h => nomatch (show none = some a from h)) (fun h => nomatch (show none = some a from h))
  · exact fun a w h => h.elim (fun h => nomatch (show none = some a from h)) (fun h => nomatch (show none = some a from h))
  · exact fun h new had old hh => nomatch (show none = some h from hh)
  · exact ⟨by decide, by decide, by decide, by decide⟩
  · exact ⟨4, by decide +kernel, .inl ⟨by decide +kernel, fun b hb => by
      obtain rfl : (0 : Fin 3) = b := Option.some.inj hb
      exact ⟨1, ⟨.inl (by decide +kernel), by decide +kernel⟩, by decide⟩⟩⟩
  · exact fun u n h => nomatch (show none = some (u, n) from h)
  · trivial

/-- A read of the publication word that finds it as the part left it. -/
theorem test_meets_banks_read_as_known :
    let s := pseFlight 28 .read (inPass .unconfirmedRead (published running))
    s.banksReadAsKnown (after (.unconfirmedBankReadAnswer (.word 4)) s) := by
  intro s a c _ _ _ offset b _ h
  have same : (after (.unconfirmedBankReadAnswer (.word 4)) s).window = s.window := by decide +kernel
  rw [same]
  exact h

theorem test_meets_PoolAndCountLawsAreKept : commanded.clb.poolLaw ∧ commanded.countLaw := by
  constructor
  · have h : (commanded.clb.free ++ commanded.clb.slots.toList.flatMap CurveSlot.blocks ++ commanded.clb.buildingBlocks)
        = List.finRange 96 := by decide +kernel
    unfold Clb.poolLaw; rw [h]
  · intro c
    simp only [commanded_slot, commanded_point, countNamed]
    have none_bound : (0 : Nat) = ((List.finRange 256).filter fun _ => false).length := by decide +kernel
    exact ⟨none_bound, none_bound⟩

theorem test_meets_InvertibleLawIsKept :
    commanded.clb.liveInvertible ∧ commanded.clb.buildingInvertible ∧ commanded.invertibleGuard := by
  refine ⟨fun c body h => ?_, fun b body h => ?_, fun b body h => ?_, fun i d c body h => ?_, fun sc h h' => ?_⟩
  · rw [commanded_slot] at h; cases h
  · exact nomatch (show none = some b from h)
  · exact nomatch (show none = some b from h)
  · exact nomatch (show none = some (Edit.setPoint i d) from h)
  · exact nomatch (show none = some sc from h')

theorem test_meets_PointLawIsKept : commanded.pointLaw :=
  ⟨fun i => by rw [commanded_point]; exact ⟨rfl, rfl, rfl⟩,
    fun i d h => (nomatch (show none = some (Edit.setPoint i d) from h)), fun c h => by
      obtain rfl : config = c := Option.some.inj h
      decide,
    fun h c had old hh => nomatch (show none = some h from hh)⟩

theorem test_meets_ZoneLawIsKept : commanded.zoneLaw :=
  ⟨fun z => by rw [commanded_set]; exact Nat.le_refl 1, fun i => by rw [commanded_point, commanded_zone]; exact rfl,
    fun z v h => (nomatch (show none = some (Edit.setZones z v) from h)),
    fun i d z h => nomatch (show none = some (Edit.setPoint i d) from h)⟩

theorem test_meets_RoomLawIsKept : commanded.roomLaw :=
  ⟨⟨by decide, fun seq e k behind h => nomatch (show EvrWork.idle = .writing seq e k behind from h)⟩,
    fun h c had old hh => nomatch (show none = some h from hh)⟩

theorem test_meets_EngineLawIsKept : commanded.engineLaw := by
  refine ⟨fun h => absurd rfl h, fun h => absurd rfl h, fun h => ?_, fun h => ?_, fun h hh => ?_, fun h => ?_, fun h => ?_,
    fun a h => ?_, fun c a h => ?_, fun a h => ?_⟩
  · exact nomatch (show EngineState.running = .stopping from h)
  · exact nomatch (show false = true from h)
  · exact nomatch (show none = some h from hh)
  · exact nomatch (show EngineState.running = .faulted from h)
  · exact h.elim (fun h => nomatch (show EngineState.running = .detached from h))
      (fun h => nomatch (show EngineState.running = .attaching from h))
  · exact nomatch (show none = some a from h)
  · cases c <;> exact nomatch (show none = some a from h)
  · exact nomatch (show none = some a from h)

/-- One state that meets every hypothesis of the publication guard's step. -/
theorem test_meets_the_step_of_the_publication_guard :
    ∃ t, step (published commanded) = .next t ∧ (published commanded).engineLaw ∧ (published commanded).publicationGuard
      ∧ (published commanded).banksReadAsKnown t :=
  ⟨_, rfl, test_meets_EngineLawIsKept, test_meets_the_publication_guard.1, fun a _ h => nomatch (show none = some a from h)⟩

theorem test_meets_PlacementLawIsKept : commanded.placementLaw :=
  ⟨rfl, by decide +kernel, fun _ _ => by decide +kernel, fun length hl => by
    obtain rfl : 65536 = length := Option.some.inj hl
    exact ⟨by decide +kernel, fun h b hh => (nomatch (show none = some h from hh)),
      fun h c had old hh => nomatch (show none = some h from hh)⟩⟩

end Sys2Proof.Tests
end

/-! The arithmetic the curve kinds share: the rounded quotient (R4), the line through two points, saturation (R5), and the
integer root (R15). -/
namespace Sys2Proof.Machine

/-! ### The rounded quotient (R4) -/

/-- The rounded quotient of two magnitudes: the whole part, or one more (R4, steps 1 and 2). -/
def roundedMagnitude (a b : Nat) : Nat := if b ≤ 2 * (a % b) then a / b + 1 else a / b

/-- R4's step 3 as the model takes it. -/
theorem roundedQuotient_eq (p q : Int) :
    roundedQuotient p q =
      if p < 0 ↔ q < 0 then (roundedMagnitude p.natAbs q.natAbs : Int) else -roundedMagnitude p.natAbs q.natAbs := by
  simp only [roundedQuotient, roundedMagnitude, decide_eq_decide]

theorem natAbs_roundedQuotient (p q : Int) :
    (roundedQuotient p q).natAbs = roundedMagnitude p.natAbs q.natAbs := by
  rw [roundedQuotient_eq]
  split <;> simp only [Int.natAbs_neg, Int.natAbs_natCast]

theorem roundedMagnitude_zero {b : Nat} (hb : 0 < b) : roundedMagnitude 0 b = 0 := by
  simp [roundedMagnitude, Nat.pos_iff_ne_zero.1 hb]

/-- A magnitude is rounded to nearest: the error is at most half the divisor. -/
theorem roundedMagnitude_error (a : Nat) {b : Nat} (hb : 0 < b) :
    2 * a ≤ 2 * (roundedMagnitude a b * b) + b ∧ 2 * (roundedMagnitude a b * b) ≤ 2 * a + b := by
  have hdiv := Nat.div_add_mod' a b
  have hmod := Nat.mod_lt a hb
  unfold roundedMagnitude
  split
  · rw [Nat.add_mul, Nat.one_mul]; omega
  · omega

theorem roundedQuotient_zero {q : Int} (hq : q ≠ 0) : roundedQuotient 0 q = 0 := by
  rw [← Int.natAbs_eq_zero, natAbs_roundedQuotient, Int.natAbs_zero, roundedMagnitude_zero (Int.natAbs_pos.2 hq)]

/-- The sign is that of p/q, and there is none for magnitude zero. -/
theorem roundedQuotient_neg_iff (p q : Int) (hq : q ≠ 0) :
    roundedQuotient p q < 0 ↔
      ((p < 0 ∧ 0 < q) ∨ (0 < p ∧ q < 0)) ∧ roundedMagnitude p.natAbs q.natAbs ≠ 0 := by
  rcases eq_or_ne p 0 with rfl | hp
  · simp [roundedQuotient_zero hq]
  · rw [roundedQuotient_eq]
    split <;> omega

/-- p/q is the quotient of the negated terms. -/
theorem roundedQuotient_neg_neg (p q : Int) (hq : q ≠ 0) : roundedQuotient (-p) (-q) = roundedQuotient p q := by
  rcases eq_or_ne p 0 with rfl | hp
  · rw [Int.neg_zero, roundedQuotient_zero hq, roundedQuotient_zero (Int.neg_ne_zero.2 hq)]
  · have hsigns : (-p < 0 ↔ -q < 0) ↔ (p < 0 ↔ q < 0) := by omega
    simp only [roundedQuotient_eq, Int.natAbs_neg, hsigns]

/-- By a positive divisor the error of the rounded quotient is at most half the divisor. -/
theorem roundedQuotient_error (p : Int) {q : Int} (hq : 0 < q) :
    2 * p ≤ 2 * (roundedQuotient p q * q) + q ∧ 2 * (roundedQuotient p q * q) ≤ 2 * p + q := by
  lift q to Nat using hq.le
  obtain ⟨a, rfl | rfl⟩ := p.eq_nat_or_neg
  all_goals
    have herr := roundedMagnitude_error a (Int.natCast_pos.1 hq)
    zify at herr
    simp only [roundedQuotient_eq, Int.natAbs_neg, Int.natAbs_natCast]
    have hneg := Int.neg_mul (roundedMagnitude a q : Int) q
    split <;> omega

theorem le_roundedQuotient {p q lo : Int} (hq : 0 < q) (h : lo * q ≤ p) : lo ≤ roundedQuotient p q := by
  by_contra hlt
  have hstep : roundedQuotient p q * q ≤ (lo - 1) * q := Int.mul_le_mul_of_nonneg_right (by omega) hq.le
  have := (roundedQuotient_error p hq).1
  rw [Int.sub_mul, Int.one_mul] at hstep
  omega

theorem roundedQuotient_le {p q hi : Int} (hq : 0 < q) (h : p ≤ hi * q) : roundedQuotient p q ≤ hi := by
  by_contra hlt
  have hstep : (hi + 1) * q ≤ roundedQuotient p q * q := Int.mul_le_mul_of_nonneg_right (by omega) hq.le
  have := (roundedQuotient_error p hq).2
  rw [Int.add_mul, Int.one_mul] at hstep
  omega

/-- An exact quotient is not rounded. -/
theorem roundedQuotient_mul_left (d k : Int) (hd : d ≠ 0) : roundedQuotient (d * k) d = k := by
  have hpos : ∀ d k : Int, 0 < d → roundedQuotient (d * k) d = k := fun d k h =>
    Int.le_antisymm (roundedQuotient_le h (by rw [Int.mul_comm])) (le_roundedQuotient h (by rw [Int.mul_comm]))
  rcases Int.lt_or_gt_of_ne hd with h | h
  · rw [← roundedQuotient_neg_neg _ _ hd, ← Int.neg_mul, hpos _ _ (by omega)]
  · exact hpos d k h

/-! ### The line through two points -/

@[simp] theorem lineAt_left {x0 x1 : Int} (y0 y1 : Int) (h : x0 ≠ x1) : lineAt x0 y0 x1 y1 x0 = y0 := by
  simp [lineAt, roundedQuotient_zero (sub_ne_zero.2 h.symm)]

@[simp] theorem lineAt_right {x0 x1 : Int} (y0 y1 : Int) (h : x0 ≠ x1) : lineAt x0 y0 x1 y1 x1 = y1 := by
  rw [lineAt, roundedQuotient_mul_left _ _ (sub_ne_zero.2 h.symm)]
  omega

/-- The line read on the axis turned around. -/
theorem lineAt_neg {x0 x1 : Int} (y0 y1 x : Int) (h : x0 ≠ x1) :
    lineAt (-x0) y0 (-x1) y1 (-x) = lineAt x0 y0 x1 y1 x := by
  have hd : x1 - x0 ≠ 0 := sub_ne_zero.2 h.symm
  rw [lineAt, lineAt, ← roundedQuotient_neg_neg _ _ hd]
  congr 2 <;> ring

/-- Between two points the rounded line stays between their y values. -/
theorem lineAt_between {x0 x1 x : Int} (y0 y1 : Int) (hx0 : x0 ≤ x) (hx1 : x ≤ x1) (h : x0 < x1) :
    min y0 y1 ≤ lineAt x0 y0 x1 y1 x ∧ lineAt x0 y0 x1 y1 x ≤ max y0 y1 := by
  have hd : 0 < x1 - x0 := by omega
  have ht : 0 ≤ x - x0 := by omega
  have htd : x - x0 ≤ x1 - x0 := by omega
  unfold lineAt
  rcases Int.le_total y0 y1 with hy | hy
  · have hk : 0 ≤ y1 - y0 := by omega
    have hlo := le_roundedQuotient (lo := 0) hd (by simpa using Int.mul_nonneg ht hk)
    have hhi := roundedQuotient_le hd ((Int.mul_le_mul_of_nonneg_right htd hk).trans_eq (Int.mul_comm _ _))
    omega
  · have hk : y1 - y0 ≤ 0 := by omega
    have hhi := roundedQuotient_le (hi := 0) hd (by simpa using Int.mul_nonpos_of_nonneg_of_nonpos ht hk)
    have hlo := le_roundedQuotient hd ((Int.mul_comm _ _).trans_le (Int.mul_le_mul_of_nonpos_right htd hk))
    omega

/-! ### Saturation (R5) -/

/-- R5's three ranges. -/
theorem finalResult_eq (v : Int) :
    finalResult v = if 2147483647 < v then .value 0x7FFFFFFF .clamped
      else if v < -2147483648 then .value 0x80000000 .clamped
      else .value (BitVec.ofInt 32 v) .good := by
  rcases lt_or_ge 2147483647 v with hi | hi
  · simp [finalResult, saturate, hi]
  · by_cases lo : v < -2147483648 <;> simp [finalResult, saturate, hi.not_gt, lo]

theorem finalResult_of_inRange {v : Int} (lo : -2147483648 ≤ v) (hi : v ≤ 2147483647) :
    finalResult v = .value (BitVec.ofInt 32 v) .good := by
  rw [finalResult_eq, if_neg (Int.not_lt.2 hi), if_neg (Int.not_lt.2 lo)]

theorem word_toInt_inRange (w : Word) : -2147483648 ≤ w.toInt ∧ w.toInt ≤ 2147483647 := by
  have lo := BitVec.le_toInt w
  have hi := BitVec.toInt_lt (x := w)
  omega

@[simp] theorem finalResult_toInt (w : Word) : finalResult w.toInt = .value w .good := by
  obtain ⟨lo, hi⟩ := word_toInt_inRange w
  rw [finalResult_of_inRange lo hi, BitVec.ofInt_toInt]

/-! ### The integer root (R15) -/

/-- The search keeps the root at or above the part `r` found and below `r + 2 ^ b`. -/
theorem integerRootBits_eq_sqrt (n b r : Nat) (lo : r * r ≤ n) (hi : n < (r + 2 ^ b) * (r + 2 ^ b)) :
    integerRootBits n b r = Nat.sqrt n := by
  induction b generalizing r with
  | zero => exact Nat.eq_sqrt.2 ⟨lo, hi⟩
  | succ b ih =>
    rw [integerRootBits]
    split
    · next hbit => exact ih _ hbit (by rwa [Nat.pow_succ, Nat.mul_two, ← Nat.add_assoc] at hi)
    · next hbit => exact ih _ lo (Nat.lt_of_not_le hbit)

theorem integerRoot_eq_sqrt {n : Nat} (h : n < 2 ^ 64) : integerRoot n = Nat.sqrt n :=
  integerRootBits_eq_sqrt n 32 0 (Nat.zero_le n) (by simpa using h)

/-- The integer root of a number below 2^64 is the one whose square does not exceed it while the next square does. -/
theorem integerRoot_unique {n root : Nat} (hn : n < 2 ^ 64) (lo : root * root ≤ n)
    (hi : n < (root + 1) * (root + 1)) : integerRoot n = root :=
  (integerRoot_eq_sqrt hn).trans (Nat.eq_sqrt.2 ⟨lo, hi⟩).symm

end Sys2Proof.Machine

/-! The evaluations of chapter 1, kind by kind. -/
namespace Sys2Proof.Machine

/-- Settles O46: whole part and remainder are those of the magnitudes. -/
theorem quotientsRoundHalvesAwayFromZero : Obligations.QuotientsRoundHalvesAwayFromZero :=
  ⟨fun p q hq => ⟨p.natAbs / q.natAbs, p.natAbs % q.natAbs, roundedMagnitude p.natAbs q.natAbs,
      (Nat.div_add_mod _ _).symm, Nat.mod_lt _ (Int.natAbs_pos.2 hq), rfl,
      natAbs_roundedQuotient p q, roundedQuotient_neg_iff p q hq⟩,
    by decide⟩

/-! ### LINEAR2 (R9, R10) -/

/-- Off the clamp, or inside the range, LINEAR2 is the line. -/
theorem evalLinear2_inside {aLo aHi bLo bHi input : Word} {clamp : Bool}
    (h : clamp = false ∨
      (min aLo.toInt aHi.toInt ≤ input.toInt ∧ input.toInt ≤ max aLo.toInt aHi.toInt)) :
    evalLinear2 aLo aHi bLo bHi clamp input
      = finalResult (lineAt aLo.toInt bLo.toInt aHi.toInt bHi.toInt input.toInt) := by
  unfold evalLinear2
  rcases h with rfl | ⟨lo, hi⟩
  · simp
  · rw [if_neg fun ⟨_, below⟩ => below.not_ge lo, if_neg fun ⟨_, above⟩ => above.not_ge hi]

/-- With the clamp, an input below the range is pinned to its lower end. -/
theorem evalLinear2_below {aLo aHi bLo bHi input : Word} (hne : aLo.toInt ≠ aHi.toInt)
    (h : input.toInt < min aLo.toInt aHi.toInt) :
    evalLinear2 aLo aHi bLo bHi true input
      = .value (if aLo.toInt < aHi.toInt then bLo else bHi) .clamped := by
  unfold evalLinear2
  simp only [h, hne.le_iff_lt, true_and, if_true]

/-- With the clamp, an input above the range is pinned to its upper end. -/
theorem evalLinear2_above {aLo aHi bLo bHi input : Word} (hne : aLo.toInt ≠ aHi.toInt)
    (h : max aLo.toInt aHi.toInt < input.toInt) :
    evalLinear2 aLo aHi bLo bHi true input
      = .value (if aLo.toInt < aHi.toInt then bHi else bLo) .clamped := by
  have hlow : ¬ input.toInt < min aLo.toInt aHi.toInt := by omega
  unfold evalLinear2
  simp only [hlow, h, hne.le_iff_lt, and_false, true_and, if_true, if_false]

/-- The first end of the range gives its paired value, with or without the clamp. -/
theorem evalLinear2_lo {aLo aHi bLo bHi : Word} {clamp : Bool} (hne : aLo.toInt ≠ aHi.toInt) :
    evalLinear2 aLo aHi bLo bHi clamp aLo = .value bLo .good := by
  rw [evalLinear2_inside (.inr (by omega)), lineAt_left _ _ hne, finalResult_toInt]

/-- So does the second end. -/
theorem evalLinear2_hi {aLo aHi bLo bHi : Word} {clamp : Bool} (hne : aLo.toInt ≠ aHi.toInt) :
    evalLinear2 aLo aHi bLo bHi clamp aHi = .value bHi .good := by
  rw [evalLinear2_inside (.inr (by omega)), lineAt_right _ _ hne, finalResult_toInt]

/-- LINEAR2 from one axis to the other, range by range and at the ends. -/
theorem evalLinear2_spec {aLo aHi : Word} (bLo bHi : Word) (clamp : Bool) (input : Word) (hne : aLo ≠ aHi) :
    let e := evalLinear2 aLo aHi bLo bHi clamp input
    ((clamp = false ∨ (min aLo.toInt aHi.toInt ≤ input.toInt ∧ input.toInt ≤ max aLo.toInt aHi.toInt)) →
      e = finalResult (lineAt aLo.toInt bLo.toInt aHi.toInt bHi.toInt input.toInt))
    ∧ (clamp = true → input.toInt < min aLo.toInt aHi.toInt →
      e = .value (if aLo.toInt < aHi.toInt then bLo else bHi) .clamped)
    ∧ (clamp = true → max aLo.toInt aHi.toInt < input.toInt →
      e = .value (if aLo.toInt < aHi.toInt then bHi else bLo) .clamped)
    ∧ (input = aLo → e = .value bLo .good) ∧ (input = aHi → e = .value bHi .good) := by
  have hne' : aLo.toInt ≠ aHi.toInt := BitVec.toInt_inj.not.2 hne
  refine ⟨evalLinear2_inside, ?_, ?_, ?_, ?_⟩
  · rintro rfl; exact evalLinear2_below hne'
  · rintro rfl; exact evalLinear2_above hne'
  · rintro rfl; exact evalLinear2_lo hne'
  · rintro rfl; exact evalLinear2_hi hne'

/-- Inverse LINEAR2 of an invertible body exchanges the axes (R10). -/
theorem eval_linear2_inverse {xLo xHi yLo yHi : Word} (clamp : Bool) (input : Word) (hy : yLo ≠ yHi) :
    (CurveShape.linear2 xLo xHi yLo yHi clamp).eval .inverse input = evalLinear2 yLo yHi xLo xHi clamp input :=
  if_neg hy

/-! ### ROOT (R15) -/

theorem evalRoot_cutoff {x0 c m y0 input : Word} (h : input.toInt - x0.toInt < c.toNat) :
    evalRoot x0 c m y0 input = .value y0 .cutoff :=
  if_pos h

/-- At or above the cutoff ROOT adds the integer root of d × M, which is below 2^64. -/
theorem evalRoot_root {x0 c m y0 input : Word} {root : Nat} (h : (c.toNat : Int) ≤ input.toInt - x0.toInt)
    (lo : (root : Int) * root ≤ (input.toInt - x0.toInt) * m.toNat)
    (hi : (input.toInt - x0.toInt) * m.toNat < ((root : Int) + 1) * (root + 1)) :
    evalRoot x0 c m y0 input = finalResult (y0.toInt + root) := by
  have hinput := word_toInt_inRange input
  have hx0 := word_toInt_inRange x0
  rw [evalRoot, if_neg (Int.not_lt.2 h)]
  have hdiff : input.toInt - x0.toInt < 2 ^ 32 := by omega
  generalize input.toInt - x0.toInt = d at h lo hi hdiff ⊢
  lift d to Nat using by omega
  have hbound : d * m.toNat < 2 ^ 32 * 2 ^ 32 := Nat.mul_lt_mul'' (by omega) m.isLt
  rw [Int.toNat_natCast, integerRoot_unique hbound (by exact_mod_cast lo) (by exact_mod_cast hi)]

/-- Settles O47: each clause is the lemma of its kind and range, and `finalResult_eq` is R5. -/
theorem linearRatioAndRootEvaluate : Obligations.LinearRatioAndRootEvaluate := by
  unfold Obligations.LinearRatioAndRootEvaluate
  simp only [← finalResult_eq]
  refine ⟨fun xLo xHi yLo yHi clamp input dir hx hy => ?_, fun a b c input => ⟨rfl, rfl⟩,
    fun x0 c m y0 input => ⟨evalRoot_cutoff, fun root => evalRoot_root⟩⟩
  cases dir with
  | forward => exact evalLinear2_spec yLo yHi clamp input hx
  | inverse =>
    have hy' := hy rfl
    simp only [eval_linear2_inverse clamp input hy']
    exact evalLinear2_spec xLo xHi clamp input hy'

end Sys2Proof.Machine

/-! SEGMENTED (R18 to R22). The forward direction and the two inverse ones are one search: along the pairs, by one of their
two columns, upward or downward. What the search finds is proved once. -/
namespace Sys2Proof.Machine

/-! ### The common search -/

/-- `a` lies before `b` in the order the column runs in. -/
def comesBefore (descending : Bool) (a b : Int) : Bool :=
  if descending then decide (b < a) else decide (a < b)

@[simp] theorem comesBefore_ascending (a b : Int) : comesBefore false a b = true ↔ a < b := by simp [comesBefore]

@[simp] theorem comesBefore_descending (a b : Int) : comesBefore true a b = true ↔ b < a := by simp [comesBefore]

/-- An input not before the later of two values is not before the earlier. -/
theorem not_comesBefore_of_comesBefore {descending : Bool} {a b v : Int} (hab : comesBefore descending a b)
    (hv : ¬ comesBefore descending v b) : ¬ comesBefore descending v a := by
  cases descending <;> simp only [comesBefore_ascending, comesBefore_descending] at * <;> omega

theorem ne_of_comesBefore {descending : Bool} {a b : Int} (h : comesBefore descending a b) : a ≠ b := by
  cases descending <;> simp only [comesBefore_ascending, comesBefore_descending] at h <;> omega

theorem eq_of_not_comesBefore {descending : Bool} {a b : Int} (hab : ¬ comesBefore descending a b)
    (hba : ¬ comesBefore descending b a) : a = b := by
  cases descending <;> simp only [comesBefore_ascending, comesBefore_descending] at hab hba <;> omega

/-- The search from pair `p` on by the column `key`, with the result from the column `value`. -/
def evalSegmentsAlong (key value : Pair → Word) (descending : Bool) (p : Pair) : List Pair → Int → CurveResult
  | [], v => .value (value p) (if v = (key p).toInt then .good else .clamped)
  | q :: rest, v =>
    if comesBefore descending v (key q).toInt then
      finalResult (lineAt (key p).toInt (value p).toInt (key q).toInt (value q).toInt v)
    else evalSegmentsAlong key value descending q rest v

theorem evalSegmentsForward_eq (p : Pair) (rest : List Pair) (v : Int) :
    evalSegmentsForward p rest v = evalSegmentsAlong Pair.x Pair.y false p rest v := by
  induction rest generalizing p with
  | nil => rfl
  | cons q rest ih => simp only [evalSegmentsForward, evalSegmentsAlong, comesBefore_ascending, ih]

theorem evalSegmentsAscending_eq (p : Pair) (rest : List Pair) (v : Int) :
    evalSegmentsAscending p rest v = evalSegmentsAlong Pair.y Pair.x false p rest v := by
  induction rest generalizing p with
  | nil => rfl
  | cons q rest ih => simp only [evalSegmentsAscending, evalSegmentsAlong, comesBefore_ascending, ih]

theorem evalSegmentsDescending_eq (p : Pair) (rest : List Pair) (v : Int) :
    evalSegmentsDescending p rest v = evalSegmentsAlong Pair.y Pair.x true p rest v := by
  induction rest generalizing p with
  | nil => rfl
  | cons q rest ih => simp only [evalSegmentsDescending, evalSegmentsAlong, comesBefore_descending, ih]

/-- The last of the pairs, as the pair of the greatest index. -/
theorem getLast?_getD_eq_getElem (p : Pair) (rest : List Pair) : rest.getLast?.getD p = (p :: rest)[rest.length] := by
  cases rest <;> simp [List.getLast?_eq_getElem?]

/-- The whole table: pinned before the first pair, else the search. -/
def evalTable (key value : Pair → Word) (descending : Bool) (first : Pair) (rest : List Pair) (v : Int) : CurveResult :=
  if comesBefore descending v (key first).toInt then .value (value first) .clamped
  else evalSegmentsAlong key value descending first rest v

/-- The column `key` runs strictly in the order named. -/
def runsInOrder (key : Pair → Word) (descending : Bool) (pairs : List Pair) : Prop :=
  ∀ (i : Nat) (h : i + 1 < pairs.length), comesBefore descending (key pairs[i]).toInt (key pairs[i + 1]).toInt

theorem runsInOrder.head {key : Pair → Word} {descending : Bool} {p q : Pair} {rest : List Pair}
    (h : runsInOrder key descending (p :: q :: rest)) : comesBefore descending (key p).toInt (key q).toInt :=
  h 0 (by simp)

theorem runsInOrder.tail {key : Pair → Word} {descending : Bool} {p : Pair} {rest : List Pair}
    (h : runsInOrder key descending (p :: rest)) : runsInOrder key descending rest :=
  fun i hi => h (i + 1) (by simpa using hi)

section
variable {key value : Pair → Word} {descending : Bool}

/-- An input not before a pair is not before the first one. -/
theorem not_comesBefore_first {first : Pair} {rest : List Pair} {v : Int}
    (hrun : runsInOrder key descending (first :: rest)) (i : Nat) (h : i < (first :: rest).length)
    (hv : ¬ comesBefore descending v (key (first :: rest)[i]).toInt) :
    ¬ comesBefore descending v (key first).toInt := by
  induction i with
  | zero => exact hv
  | succ i ih => exact ih (by omega) (not_comesBefore_of_comesBefore (hrun i h) hv)

/-- On one segment the rounded line lies between the two values, so that it is never saturated (R5, R19, R22). -/
theorem finalResult_lineAt_segment (a0 b0 a1 b1 : Word) {v : Int}
    (hseg : comesBefore descending a0.toInt a1.toInt) (h0 : ¬ comesBefore descending v a0.toInt)
    (h1 : comesBefore descending v a1.toInt) :
    finalResult (lineAt a0.toInt b0.toInt a1.toInt b1.toInt v)
      = .value (BitVec.ofInt 32 (lineAt a0.toInt b0.toInt a1.toInt b1.toInt v)) .good := by
  have hb0 := word_toInt_inRange b0
  have hb1 := word_toInt_inRange b1
  have hbetween : min b0.toInt b1.toInt ≤ lineAt a0.toInt b0.toInt a1.toInt b1.toInt v
      ∧ lineAt a0.toInt b0.toInt a1.toInt b1.toInt v ≤ max b0.toInt b1.toInt := by
    cases descending with
    | false =>
      simp only [comesBefore_ascending] at hseg h0 h1
      exact lineAt_between _ _ (by omega) (by omega) hseg
    | true =>
      simp only [comesBefore_descending] at hseg h0 h1
      rw [← lineAt_neg _ _ _ hseg.ne']
      exact lineAt_between _ _ (by omega) (by omega) (by omega)
  exact finalResult_of_inRange (by omega) (by omega)

/-- The search stops at the segment on which the input lies (R19, R22). -/
theorem evalSegmentsAlong_segment {p : Pair} {rest : List Pair} {v : Int}
    (hrun : runsInOrder key descending (p :: rest)) (i : Nat) (h : i + 1 < (p :: rest).length)
    (h0 : ¬ comesBefore descending v (key (p :: rest)[i]).toInt)
    (h1 : comesBefore descending v (key (p :: rest)[i + 1]).toInt) :
    evalSegmentsAlong key value descending p rest v
      = .value (BitVec.ofInt 32 (lineAt (key (p :: rest)[i]).toInt (value (p :: rest)[i]).toInt
          (key (p :: rest)[i + 1]).toInt (value (p :: rest)[i + 1]).toInt v)) .good := by
  induction rest generalizing p i with
  | nil => simp at h
  | cons q rest ih =>
    rw [evalSegmentsAlong]
    cases i with
    | zero => exact (if_pos h1).trans (finalResult_lineAt_segment _ _ _ _ hrun.head h0 h1)
    | succ i =>
      rw [if_neg (not_comesBefore_first hrun.tail i (by simpa using Nat.lt_of_succ_lt h) h0)]
      exact ih hrun.tail i (by simpa using h) h0 h1

/-- At the last pair and beyond it the search runs to its end (R18, R21). -/
theorem evalSegmentsAlong_last {p : Pair} {rest : List Pair} {v : Int}
    (hrun : runsInOrder key descending (p :: rest))
    (hv : ¬ comesBefore descending v (key (p :: rest)[rest.length]).toInt) :
    evalSegmentsAlong key value descending p rest v
      = .value (value (p :: rest)[rest.length]) (if v = (key (p :: rest)[rest.length]).toInt then .good else .clamped) := by
  induction rest generalizing p with
  | nil => rfl
  | cons q rest ih =>
    rw [evalSegmentsAlong, if_neg (not_comesBefore_first hrun.tail rest.length (by simp) hv)]
    exact ih hrun.tail hv

/-! ### The whole table -/

/-- At the first pair and at the last its own value, GOOD, and beyond them the same value, CLAMPED (R18, R21); between them the
line of the segment on which the input lies, GOOD (R19, R22). -/
theorem evalTable_spec (value : Pair → Word) {first : Pair} {rest : List Pair} (v : Int) (hrest : rest ≠ [])
    (hrun : runsInOrder key descending (first :: rest)) :
    let last := rest.getLast?.getD first
    (¬ comesBefore descending (key first).toInt v → evalTable key value descending first rest v
      = .value (value first) (if v = (key first).toInt then .good else .clamped))
    ∧ (¬ comesBefore descending v (key last).toInt → evalTable key value descending first rest v
      = .value (value last) (if v = (key last).toInt then .good else .clamped))
    ∧ (∀ (i : Nat) (_ : i + 1 < (first :: rest).length), ¬ comesBefore descending v (key (first :: rest)[i]).toInt →
      comesBefore descending v (key (first :: rest)[i + 1]).toInt → evalTable key value descending first rest v
      = .value (BitVec.ofInt 32 (lineAt (key (first :: rest)[i]).toInt (value (first :: rest)[i]).toInt
          (key (first :: rest)[i + 1]).toInt (value (first :: rest)[i + 1]).toInt v)) .good) := by
  refine ⟨fun hv => ?_, fun hv => ?_, fun i hi h0 h1 => ?_⟩
  · unfold evalTable
    split
    · next hbefore => rw [if_neg (ne_of_comesBefore hbefore)]
    · next hbefore =>
      obtain rfl := eq_of_not_comesBefore hbefore hv
      obtain ⟨q, rest, rfl⟩ := List.exists_cons_of_ne_nil hrest
      rw [evalSegmentsAlong_segment hrun 0 (by simp) hbefore hrun.head, if_pos rfl]
      simp only [List.getElem_cons_zero, List.getElem_cons_succ, lineAt_left _ _ (ne_of_comesBefore hrun.head),
        BitVec.ofInt_toInt]
  · rw [getLast?_getD_eq_getElem] at hv ⊢
    rw [evalTable, if_neg (not_comesBefore_first hrun _ (by simp) hv)]
    exact evalSegmentsAlong_last hrun hv
  · rw [evalTable, if_neg (not_comesBefore_first hrun i (by omega) h0)]
    exact evalSegmentsAlong_segment hrun i hi h0 h1

end

/-! ### The three directions -/

theorem eval_segmented_forward (first : Pair) (rest : List Pair) (input : Word) :
    (CurveShape.segmented first rest).eval .forward input
      = evalTable Pair.x Pair.y false first rest input.toInt := by
  simp only [CurveShape.eval, evalSegmentedForward, evalTable, comesBefore_ascending, evalSegmentsForward_eq]

theorem eval_segmented_ascending {first : Pair} {rest : List Pair} (input : Word)
    (h : isAscending first rest = true) :
    (CurveShape.segmented first rest).eval .inverse input
      = evalTable Pair.y Pair.x false first rest input.toInt := by
  simp only [CurveShape.eval, CurveShape.isInvertible, h, Bool.true_or, if_true, evalSegmentedInverse, evalTable,
    comesBefore_ascending, evalSegmentsAscending_eq]

/-- A descending table of two pairs or more is not ascending, so that the model takes the descending search. -/
theorem isAscending_eq_false {first : Pair} {rest : List Pair} (hrest : rest ≠ [])
    (h : isDescending first rest = true) : isAscending first rest = false := by
  obtain ⟨q, rest, rfl⟩ := List.exists_cons_of_ne_nil hrest
  have hdown : q.y.toInt < first.y.toInt := (isDescending_iff _ _).1 h 0 (by simp)
  simp [isAscending, hdown.le]

theorem eval_segmented_descending {first : Pair} {rest : List Pair} (input : Word) (hrest : rest ≠ [])
    (h : isDescending first rest = true) :
    (CurveShape.segmented first rest).eval .inverse input
      = evalTable Pair.y Pair.x true first rest input.toInt := by
  simp only [CurveShape.eval, CurveShape.isInvertible, isAscending_eq_false hrest h, h, Bool.or_true, if_true,
    evalSegmentedInverse, Bool.false_eq_true, if_false, evalTable, comesBefore_descending, evalSegmentsDescending_eq]

/-- Settles O48: each direction is the search along one column, and its three clauses are those of `evalTable`. -/
theorem segmentedEvaluates : Obligations.SegmentedEvaluates := by
  intro first rest input hrest
  refine ⟨fun hx => ?_, fun hy => ?_, fun hy => ?_⟩
  · have hrun : runsInOrder Pair.x false (first :: rest) := by simpa only [runsInOrder, comesBefore_ascending] using hx
    simpa only [eval_segmented_forward, comesBefore_ascending, Int.not_lt, lineAt] using
      evalTable_spec Pair.y input.toInt hrest hrun
  · have hrun : runsInOrder Pair.y false (first :: rest) := by simpa only [runsInOrder, comesBefore_ascending] using hy
    simpa only [eval_segmented_ascending input ((isAscending_iff first rest).2 hy), comesBefore_ascending, Int.not_lt,
      lineAt] using evalTable_spec Pair.x input.toInt hrest hrun
  · have hrun : runsInOrder Pair.y true (first :: rest) := by simpa only [runsInOrder, comesBefore_descending] using hy
    simpa only [eval_segmented_descending input hrest ((isDescending_iff first rest).2 hy), comesBefore_descending,
      Int.not_lt, lineAt] using evalTable_spec Pair.x input.toInt hrest hrun

end Sys2Proof.Machine

/-! The checks of the edit requests (R42, R68, R74, R86), and how the step in which the work of a request begins ends: with the
first finishing write on its way, or with the request at its apply step. -/
namespace Sys2Proof.Machine

/-! ### The step in which the work begins -/

/-- The state in which the work of a taken request begins: the write of header word 10 stands, the scan has ended (R149, R151). -/
def State.workBegins (s : State) (a : Access) (w : Word) : State :=
  { s with
    rqh := { s.rqh with scan := none }
    window := Memory.writeWord s.window (s.busAddress a.offset) w
    bip := s.bip.ended }

theorem State.workBegins_ready {s : State} (h : s.ready) (a : Access) (w : Word) : (s.workBegins a w).ready :=
  State.ended_ready h rfl rfl

/-- The answer to the last write of a take begins the work by kind, and the step ends with the grant. -/
theorem exec_lastTakenTicketWriteAnswer_done {s : State} {a : Access} {h : Held} {w : Word}
    (hscan : s.rqh.scan = some .ticketWrite) (hheld : s.rqh.held = some h) (ha : s.awaited (.client .rqh) = some a)
    (hop : a.op = .write w) :
    exec (.lastTakenTicketWriteAnswer .done) s = .next ((s.workBegins a w).beginWork h).settle := by
  have hwritten : a.op.written = some w := by rw [hop]; rfl
  have harm : exec (.lastTakenTicketWriteAnswer .done) s
      = .next (s.onWrite (.client .rqh) .done fun s => s.takeComplete h) := by
    simp only [exec, execLastTakenTicketWriteAnswer, hscan, hheld]
  rw [harm, State.onWrite_done ha hwritten]
  rfl

/-- A step that begins the finishing ends with word 9 of the slot on its way. -/
theorem State.settle_finish {s : State} (hs : s.ready) (h : Held) (code : ResultCode) (words : List Word) :
    (s.finish h code words).settle = s.finishing h code words :=
  State.settle_ready (State.finish_ready hs h code words)

/-- An apply step taken at once leaves RQH with the effect taken and the finishing begun. -/
theorem State.applyNow_rqh (s : State) (h : Held) (e : Edit) :
    (s.applyNow h e).rqh = { s.rqh with
      effectTaken := true, held := some { h with stage := .finishing .ok (resultWords (s.applyEdit e).words) 0 } } := by
  simp [State.applyNow, State.takeEdit, State.finish, State.finishStep]

/-- Its events reach EVR as if they were handed before the owner's change, which EVR does not see. -/
theorem State.applyNow_evr (s : State) (h : Held) (e : Edit) :
    (s.applyNow h e).evr = (s.handAll (s.applyEdit e).events).evr :=
  State.handAll_evr_congr (s := (s.takeEdit h e).1) _ (by simp) (by simp) (by simp)

/-- Its first finishing write waits at BIP, whatever EVR issues. -/
theorem State.applyNow_waitRqh (s : State) (h : Held) (e : Edit) :
    (s.applyNow h e).bip.waitRqh = some ⟨.client .rqh, 64 + 64 * h.slot.val + 36, .write 0⟩ := by
  obtain ⟨evrAccess, hbip⟩ := (s.takeEdit h e).1.handAll_bip (s.applyEdit e).events
  exact congrArg Bip.waitRqh hbip

/-- A step that takes the apply step at once (R152, R153). -/
theorem State.settle_applyNow {s : State} (hs : s.ready) (h : Held) (e : Edit) :
    s.appliesNow h e (s.applyNow h e).settle := by
  have hready := State.applyNow_ready hs h e
  rw [State.settle_ready hready]
  refine ⟨by simp, by simp, by simp, by simp, by simp, by simp, by simp, s.applyNow_rqh h e, s.applyNow_evr h e, ?_⟩
  exact Bip.afterGrant_waiting hready.1 _ (s.applyNow_waitRqh h e)

/-- A step in which the request reaches its apply step: held in IN_PASS, applied in NO_PASS (R152). -/
theorem State.settle_reachApply {s : State} (hs : s.ready) (h : Held) (e : Edit) :
    s.reachesApply h e (s.reachApply h e).settle := by
  refine ⟨fun hpass => ?_, fun hpass => ?_⟩
  · rw [State.reachApply, if_pos (Option.isSome_iff_ne_none.2 hpass)]
    exact State.settle_ready (State.ready_congr hs rfl rfl rfl rfl)
  · rw [State.reachApply, hpass]
    exact State.settle_applyNow hs h e

/-- A parameter word that names an entry of a table. -/
theorem toIndex_of_toNat_eq {n : Nat} {w : Word} {i : Fin n} (h : w.toNat = i.val) : toIndex n w = some i := by
  rw [toIndex_of_lt (h ▸ i.isLt)]
  exact congrArg some (Fin.ext h)

/-! ### DELETE_CURVE (R42) -/

section
variable {s : State} {h : Held}

theorem State.beginWork_delete (hk : h.kind = 3) : s.beginWork h = s.workDelete h := by
  rw [State.beginWork, hk]; rfl

theorem State.workDelete_of_badIndex (hc : 64 ≤ (h.param 0).toNat) : s.workDelete h = s.finish h .badParam [] := by
  rw [State.workDelete, toIndex_of_le hc]

theorem State.workDelete_of_empty {c : Fin 64} (hc : (h.param 0).toNat = c.val) (hb : s.clb.slots[c].body = none) :
    s.workDelete h = s.finish h .ok [s.clb.freeWord] := by
  simp only [State.workDelete, toIndex_of_toNat_eq hc, hb, Option.isNone_none, if_true]

theorem State.workDelete_of_named {c : Fin 64} (hc : (h.param 0).toNat = c.val) (hb : s.clb.slots[c].body ≠ none)
    (hn : 0 < s.clb.slots[c].forwardCount ∨ 0 < s.clb.slots[c].inverseCount) :
    s.workDelete h
      = s.finish h .inUse [Word.ofNat s.clb.slots[c].forwardCount, Word.ofNat s.clb.slots[c].inverseCount] := by
  simp only [State.workDelete, toIndex_of_toNat_eq hc, Option.isNone_iff_eq_none, if_neg hb, if_pos hn]

theorem State.workDelete_of_unnamed {c : Fin 64} (hc : (h.param 0).toNat = c.val) (hb : s.clb.slots[c].body ≠ none)
    (hf : s.clb.slots[c].forwardCount = 0) (hi : s.clb.slots[c].inverseCount = 0) :
    s.workDelete h = s.reachApply h (.delete c) := by
  simp only [State.workDelete, toIndex_of_toNat_eq hc, Option.isNone_iff_eq_none, if_neg hb, hf, hi, Nat.lt_irrefl,
    or_self, if_false]

/-! ### SET_ZONES (R74) -/

theorem State.beginWork_setZones (hk : h.kind = 5) : s.beginWork h = s.workSetZones h := by
  rw [State.beginWork, hk]; rfl

theorem State.workSetZones_of_error {r : RefusedWith} (hc : checkSetZones h = .error r) :
    s.workSetZones h = s.finish h r.1 r.2 := by
  rw [State.workSetZones, hc]; rfl

theorem State.workSetZones_of_ok {z : Fin 64} {v : ZoneSet} (hc : checkSetZones h = .ok (z, v)) :
    s.workSetZones h = s.reachApply h (.setZones z v) := by
  rw [State.workSetZones, hc]

theorem checkSetZones_of_badIndex (hz : 64 ≤ (h.param 0).toNat) : checkSetZones h = .error (badParam 1) := by
  rw [checkSetZones, toIndex_of_le hz]

/-- With a zone set named the three other checks of R74 come in order. -/
theorem checkSetZones_of_index {z : Fin 64} (hz : (h.param 0).toNat = z.val) :
    checkSetZones h =
      if (h.param 2).toInt < (h.param 1).toInt then .error (badParam 2)
      else if (h.param 2).toInt - (h.param 1).toInt < (h.param 3).toNat then .error (badParam 3)
      else if (h.param 4).toNat < 1 ∨ 15 < (h.param 4).toNat then .error (badParam 4)
      else .ok (z, ⟨true, h.param 1, h.param 2, h.param 3, (h.param 4).toNat, (h.param 5).getLsbD 0⟩) := by
  rw [checkSetZones, toIndex_of_toNat_eq hz]

section
variable {z : Fin 64} (hz : (h.param 0).toNat = z.val)
include hz

theorem checkSetZones_of_reversed (hlimits : (h.param 2).toInt < (h.param 1).toInt) :
    checkSetZones h = .error (badParam 2) := by
  rw [checkSetZones_of_index hz, if_pos hlimits]

variable (hlimits : (h.param 1).toInt ≤ (h.param 2).toInt)
include hlimits

theorem checkSetZones_of_hysteresis (hhyst : (h.param 2).toInt - (h.param 1).toInt < (h.param 3).toNat) :
    checkSetZones h = .error (badParam 3) := by
  rw [checkSetZones_of_index hz, if_neg hlimits.not_gt, if_pos hhyst]

variable (hhyst : ((h.param 3).toNat : Int) ≤ (h.param 2).toInt - (h.param 1).toInt)
include hhyst

theorem checkSetZones_of_dwell (hdwell : h.param 4 = 0 ∨ 15 < (h.param 4).toNat) :
    checkSetZones h = .error (badParam 4) := by
  have hrange : (h.param 4).toNat < 1 ∨ 15 < (h.param 4).toNat :=
    hdwell.imp_left fun hzero => by simp [hzero]
  rw [checkSetZones_of_index hz, if_neg hlimits.not_gt, if_neg hhyst.not_gt, if_pos hrange]

theorem checkSetZones_of_legal (hleast : 1 ≤ (h.param 4).toNat) (hmost : (h.param 4).toNat ≤ 15) :
    checkSetZones h
      = .ok (z, ⟨true, h.param 1, h.param 2, h.param 3, (h.param 4).toNat, (h.param 5).getLsbD 0⟩) := by
  rw [checkSetZones_of_index hz, if_neg hlimits.not_gt, if_neg hhyst.not_gt, if_neg (by omega)]

end

/-! ### CLEAR_POINT (R68) -/

theorem State.beginWork_clearPoint (hk : h.kind = 7) : s.beginWork h = s.workClearPoint h := by
  rw [State.beginWork, hk]; rfl

theorem State.workClearPoint_of_badIndex (hi : 256 ≤ (h.param 0).toNat) :
    s.workClearPoint h = s.finish h .badParam [] := by
  rw [State.workClearPoint, toIndex_of_le hi]

theorem State.workClearPoint_of_unused {i : Fin 256} (hi : (h.param 0).toNat = i.val)
    (hd : s.ptb.points[i].definition = none) : s.workClearPoint h = s.finish h .ok [0, s.pse.passNumber] := by
  simp only [State.workClearPoint, toIndex_of_toNat_eq hi, hd, Option.isNone_none, if_true]

theorem State.workClearPoint_of_active {i : Fin 256} (hi : (h.param 0).toNat = i.val)
    (hd : s.ptb.points[i].definition ≠ none) : s.workClearPoint h = s.reachApply h (.clearPoint i) := by
  simp only [State.workClearPoint, toIndex_of_toNat_eq hi, Option.isNone_iff_eq_none, if_neg hd]

/-! ### ACK_ZONE (R86) -/

theorem State.beginWork_ackZone (hk : h.kind = 8) : s.beginWork h = s.workAckZone h := by
  rw [State.beginWork, hk]; rfl

theorem State.workAckZone_of_error {r : RefusedWith} (hc : checkAckZone h = .error r) :
    s.workAckZone h = s.finish h r.1 r.2 := by
  rw [State.workAckZone, hc]; rfl

theorem State.workAckZone_of_ok {t : AckTarget} (hc : checkAckZone h = .ok t) :
    s.workAckZone h = s.reachApply h (.ackZone t) := by
  rw [State.workAckZone, hc]

theorem checkAckZone_of_badTarget (ht : 2 ≤ (h.param 0).toNat) : checkAckZone h = .error (badParam 1) := by
  have hne : ∀ w : Word, w.toNat < 2 → h.param 0 ≠ w := fun w hw heq => by rw [heq] at ht; omega
  rw [checkAckZone, if_neg (hne 0 (by decide)), if_neg (hne 1 (by decide))]

theorem checkAckZone_of_badPoint (ht : h.param 0 = 0) (hi : 256 ≤ (h.param 1).toNat) :
    checkAckZone h = .error (badParam 2) := by
  rw [checkAckZone, if_pos ht, toIndex_of_le hi]

theorem checkAckZone_of_badZoneSet (ht : h.param 0 = 1) (hz : 64 ≤ (h.param 1).toNat) :
    checkAckZone h = .error (badParam 3) := by
  rw [checkAckZone, ht, if_neg (by decide), if_pos rfl, toIndex_of_le hz]

theorem checkAckZone_of_point {i : Fin 256} (ht : h.param 0 = 0) (hi : (h.param 1).toNat = i.val) :
    checkAckZone h = .ok (.point i) := by
  rw [checkAckZone, if_pos ht, toIndex_of_toNat_eq hi]

theorem checkAckZone_of_zoneSet {z : Fin 64} (ht : h.param 0 = 1) (hz : (h.param 1).toNat = z.val) :
    checkAckZone h = .ok (.zoneSet z) := by
  rw [checkAckZone, ht, if_neg (by decide), if_pos rfl, toIndex_of_toNat_eq hz]

end

/-! ### The four kinds -/

/-- Settles O34: a check that fails begins the finishing, one that passes reaches the apply step, and the step ends with the
grant. -/
theorem editRequestsAreChecked : Obligations.EditRequestsAreChecked := by
  intro s a h w hscan hheld ha hop hadmitted hplaced u result p
  have hready : u.ready := State.workBegins_ready ⟨hadmitted, hplaced⟩ a w
  have hresult : result = .next (u.beginWork h).settle := exec_lastTakenTicketWriteAnswer_done hscan hheld ha hop
  have finishes : ∀ {code words}, u.beginWork h = u.finish h code words → result = .next (u.finishing h code words) :=
    fun hwork => by rw [hresult, hwork, State.settle_finish hready]
  have reaches : ∀ {e}, u.beginWork h = u.reachApply h e → ∃ t, result = .next t ∧ u.reachesApply h e t :=
    fun hwork => ⟨_, hresult, hwork ▸ State.settle_reachApply hready h _⟩
  refine ⟨fun hk hc => ?_, fun c hk hc => ?_, fun hk => ?_, fun hk hi => ?_, fun i hk hi => ?_, fun hk => ?_⟩
  · exact finishes ((State.beginWork_delete hk).trans (State.workDelete_of_badIndex hc))
  · have hwork := State.beginWork_delete (s := u) hk
    exact ⟨fun hb => finishes (hwork.trans (State.workDelete_of_empty hc hb)),
      fun hb hn => finishes (hwork.trans (State.workDelete_of_named hc hb hn)),
      fun hb hf hi => reaches (hwork.trans (State.workDelete_of_unnamed hc hb hf hi))⟩
  · have refused {r : RefusedWith} (hc : checkSetZones h = .error r) : result = .next (u.finishing h r.1 r.2) :=
      finishes ((State.beginWork_setZones hk).trans (State.workSetZones_of_error hc))
    exact ⟨fun hz => refused (checkSetZones_of_badIndex hz), fun z hz =>
      ⟨fun hlimits => refused (checkSetZones_of_reversed hz hlimits),
        fun hlimits hhyst => refused (checkSetZones_of_hysteresis hz hlimits hhyst),
        fun hlimits hhyst hdwell => refused (checkSetZones_of_dwell hz hlimits hhyst hdwell),
        fun hlimits hhyst hleast hmost => reaches ((State.beginWork_setZones hk).trans
          (State.workSetZones_of_ok (checkSetZones_of_legal hz hlimits hhyst hleast hmost)))⟩⟩
  · exact finishes ((State.beginWork_clearPoint hk).trans (State.workClearPoint_of_badIndex hi))
  · have hwork := State.beginWork_clearPoint (s := u) hk
    exact ⟨fun hd => finishes (hwork.trans (State.workClearPoint_of_unused hi hd)),
      fun hd => reaches (hwork.trans (State.workClearPoint_of_active hi hd))⟩
  · have refused {r : RefusedWith} (hc : checkAckZone h = .error r) : result = .next (u.finishing h r.1 r.2) :=
      finishes ((State.beginWork_ackZone hk).trans (State.workAckZone_of_error hc))
    have accepted {t : AckTarget} (hc : checkAckZone h = .ok t) : ∃ t', result = .next t' ∧ u.reachesApply h (.ackZone t) t' :=
      reaches ((State.beginWork_ackZone hk).trans (State.workAckZone_of_ok hc))
    exact ⟨fun ht => refused (checkAckZone_of_badTarget ht), fun ht hi => refused (checkAckZone_of_badPoint ht hi),
      fun ht hz => refused (checkAckZone_of_badZoneSet ht hz), fun i ht hi => accepted (checkAckZone_of_point ht hi),
      fun z ht hz => accepted (checkAckZone_of_zoneSet ht hz)⟩

end Sys2Proof.Machine

/-! SET_POINT's checks (R64, R65). A run of numbered checks is described once; each part of the model's check is then such a run,
and the whole is their sequence. -/
namespace Sys2Proof.Machine

/-! ### Checks made in order -/

/-- `result` answers the checks `n` to `m - 1`, made in order: the first that fails gives its refusal, and when none fails the
answer is an accepted value. -/
def answersChecks {α : Type} (fails : Nat → Prop) (refusal : Nat → RefusedWith) (n m : Nat)
    (result : Except RefusedWith α) (accepted : α → Prop) : Prop :=
  (∀ k, n ≤ k → k < m → fails k → (∀ j, n ≤ j → j < k → ¬ fails j) → result = .error (refusal k))
  ∧ ((∀ k, n ≤ k → k < m → ¬ fails k) → ∃ v, result = .ok v ∧ accepted v)

section
variable {α β : Type} {fails : Nat → Prop} {refusal : Nat → RefusedWith} {n m : Nat}

theorem answersChecks.accept {accepted : α → Prop} {v : α} (hv : accepted v) :
    answersChecks fails refusal n n (.ok v) accepted :=
  ⟨fun _ _ _ => by omega, fun _ => ⟨v, rfl, hv⟩⟩

theorem answersChecks.refuse {accepted : α → Prop} (hn : fails n) (hm : n < m) :
    answersChecks fails refusal n m (.error (refusal n)) accepted := by
  refine ⟨fun k hk _ _ hfirst => ?_, fun hnone => absurd hn (hnone n (Nat.le_refl n) hm)⟩
  obtain rfl : n = k := Nat.le_antisymm hk (Nat.le_of_not_lt fun hlt => hfirst n (Nat.le_refl n) hlt hn)
  rfl

/-- Checks that cannot fail may be added on both sides. -/
theorem answersChecks.widen {accepted : α → Prop} {result : Except RefusedWith α} {n' m' : Nat}
    (h : answersChecks fails refusal n m result accepted) (hn : n' ≤ n) (hm : m ≤ m')
    (hadded : ∀ k, n' ≤ k → k < m' → fails k → n ≤ k ∧ k < m) :
    answersChecks fails refusal n' m' result accepted := by
  obtain ⟨refused, passed⟩ := h
  refine ⟨fun k hk hkm hfail hfirst => ?_, fun hnone => passed fun k hk hkm => hnone k (by omega) (by omega)⟩
  obtain ⟨hnk, hkm'⟩ := hadded k hk hkm hfail
  exact refused k hnk hkm' hfail fun j hj => hfirst j (by omega)

/-- A check that passes goes before the rest. -/
theorem answersChecks.pass {accepted : α → Prop} {result : Except RefusedWith α} (hn : ¬ fails n)
    (h : answersChecks fails refusal (n + 1) m result accepted) : answersChecks fails refusal n m result accepted := by
  refine h.widen (Nat.le_succ n) (Nat.le_refl m) fun k hk hkm hfail => ⟨?_, hkm⟩
  exact Nat.lt_of_le_of_ne hk fun heq => hn (heq ▸ hfail)

theorem answersChecks.ite {accepted : α → Prop} {rest : Except RefusedWith α} {p : Prop} [Decidable p]
    (hp : fails n ↔ p) (hm : n < m) (h : answersChecks fails refusal (n + 1) m rest accepted) :
    answersChecks fails refusal n m (if p then .error (refusal n) else rest) accepted := by
  split
  · next hfail => exact .refuse (hp.2 hfail) hm
  · next hpass => exact .pass (mt hp.1 hpass) h

theorem answersChecks.bind {k : Nat} {first : Except RefusedWith α} {rest : α → Except RefusedWith β}
    {accepted : α → Prop} {accepted' : β → Prop} (hfirst : answersChecks fails refusal n k first accepted)
    (hrest : ∀ v, accepted v → answersChecks fails refusal k m (rest v) accepted') (hnk : n ≤ k) (hkm : k ≤ m) :
    answersChecks fails refusal n m (first >>= rest) accepted' := by
  obtain ⟨refused, passed⟩ := hfirst
  by_cases hnone : ∀ j, n ≤ j → j < k → ¬ fails j
  · obtain ⟨v, rfl, hv⟩ := passed hnone
    refine (hrest v hv).widen hnk (Nat.le_refl m) fun j hj hjm hfail => ⟨?_, hjm⟩
    exact Nat.le_of_not_lt fun hlt => hnone j hj hlt hfail
  · push Not at hnone
    obtain ⟨j, hj, hjk, hfail⟩ := hnone
    refine ⟨fun i hi _ hfaili hfirst => ?_, fun hall => absurd hfail (hall j hj (by omega))⟩
    have hij : i ≤ j := Nat.le_of_not_lt fun hlt => hfirst j hj hlt hfail
    rw [refused i hi (by omega) hfaili hfirst]
    rfl

end

/-! ### What SET_POINT's words say (R48 to R50, R64, R190) -/

/-- The raw format of a word that names one. -/
def namedFormat (w : Word) : RawFormat := if w = 0 then .s16 else if w = 1 then .u16 else .s32

/-- The aggregate function of a word that names one. -/
def namedFunction (w : Word) : AggregateFn :=
  if w = 0 then .mean else if w = 1 then .sum else if w = 2 then .min else .max

/-- The source that kind and words name. -/
def Held.namesSource (h : Held) (source : Source) : Prop :=
  (h.param 1 = 0 → source = .raw (h.param 2).toNat (namedFormat (h.param 3)) (h.param 4) (h.param 5))
  ∧ (h.param 1 = 1 → source = .aggregate (h.param 2).toNat (h.param 3).toNat (namedFunction (h.param 4)))

/-- The curve byte of word 7. -/
def Held.curveField (h : Held) : Nat := (h.param 6).toNat % 256

/-- The direction byte of word 7. -/
def Held.directionField (h : Held) : Nat := (h.param 6).toNat / 256 % 256

/-- The zone-set byte of word 8. -/
def Held.zoneSetField (h : Held) : Nat := (h.param 7).toNat % 256

/-- The window byte of word 8. -/
def Held.windowField (h : Held) : Nat := (h.param 7).toNat / 256 % 256

/-- The definition that SET_POINT's words give. -/
def Held.namesDefinition (h : Held) (d : PointDef) : Prop :=
  h.namesSource d.source
  ∧ d.curve.map Fin.val = (if h.curveField = 255 then none else some h.curveField)
  ∧ d.direction = (if h.directionField = 1 then .inverse else .forward)
  ∧ d.zoneSet.map Fin.val = (if h.zoneSetField = 255 then none else some h.zoneSetField)
  ∧ d.window = h.windowField

/-- Some bound of the span lies outside the format's readings, or the bounds are reversed (R64 reason 5). -/
def Held.badSpan (h : Held) (least greatest : Int) : Prop :=
  (h.param 4).toInt < least ∨ greatest < (h.param 4).toInt ∨ (h.param 5).toInt < least ∨ greatest < (h.param 5).toInt
    ∨ (h.param 5).toInt < (h.param 4).toInt

/-- R64's fourteen reasons. -/
def State.setPointFails (s : State) (h : Held) (reason : Nat) : Prop :=
  match reason with
  | 1 => 256 ≤ (h.param 0).toNat
  | 2 => ¬ h.param 1 = 0 ∧ ¬ h.param 1 = 1
  | 3 => h.param 1 = 0 ∧ 3 ≤ (h.param 3).toNat
  | 4 => h.param 1 = 0 ∧ s.inputLimit ≤ (h.param 2).toNat
  | 5 => h.param 1 = 0 ∧ h.badSpan (if h.param 3 = 0 then -32768 else if h.param 3 = 1 then 0 else -2147483648)
      (if h.param 3 = 0 then 32767 else if h.param 3 = 1 then 65535 else 2147483647)
  | 6 => h.param 1 = 1 ∧ ((h.param 3).toNat < 2 ∨ 16 < (h.param 3).toNat)
  | 7 => h.param 1 = 1 ∧ 4 ≤ (h.param 4).toNat
  | 8 => h.param 1 = 1 ∧ (h.param 0).toNat ≤ (h.param 2).toNat + (h.param 3).toNat - 1
  | 9 => 64 ≤ h.curveField ∧ h.curveField ≠ 255
  | 10 => 2 ≤ h.directionField
  | 11 => h.directionField = 1 ∧ h.curveField = 255
  | 12 => 64 ≤ h.zoneSetField ∧ h.zoneSetField ≠ 255
  | 13 => ∃ z : Fin 64, h.zoneSetField = z.val ∧ s.zsv.sets[z].written = false
  | 14 => h.windowField < 1 ∨ 16 < h.windowField
  | _ => False

/-- What a request refused for one of the reasons reports; reason 4 with the limit. -/
def setPointRefusal (limit reason : Nat) : RefusedWith :=
  (.badParam, if reason = 4 then [4, Word.ofNat limit] else [Word.ofNat reason])

theorem namedFormat_least (w : Word) :
    (namedFormat w).least = if w = 0 then -32768 else if w = 1 then 0 else -2147483648 := by
  unfold namedFormat; split_ifs <;> rfl

theorem namedFormat_greatest (w : Word) :
    (namedFormat w).greatest = if w = 0 then 32767 else if w = 1 then 65535 else 2147483647 := by
  unfold namedFormat; split_ifs <;> rfl

theorem rawFormatOf_of_le {w : Word} (h : 3 ≤ w.toNat) : rawFormatOf w = none := by
  rw [rawFormatOf, if_neg (by bv_omega), if_neg (by bv_omega), if_neg (by bv_omega)]

theorem rawFormatOf_of_lt {w : Word} (h : w.toNat < 3) : rawFormatOf w = some (namedFormat w) := by
  obtain rfl | rfl | rfl : w = 0 ∨ w = 1 ∨ w = 2 := by bv_omega
  all_goals rfl

theorem aggregateFnOf_of_le {w : Word} (h : 4 ≤ w.toNat) : aggregateFnOf w = none := by
  rw [aggregateFnOf, if_neg (by bv_omega), if_neg (by bv_omega), if_neg (by bv_omega), if_neg (by bv_omega)]

theorem aggregateFnOf_of_lt {w : Word} (h : w.toNat < 4) : aggregateFnOf w = some (namedFunction w) := by
  obtain rfl | rfl | rfl | rfl : w = 0 ∨ w = 1 ∨ w = 2 ∨ w = 3 := by bv_omega
  all_goals rfl

/-- The low byte of a word names no slot and is not "none" (R64 reasons 9 and 12). -/
theorem slotField_lowByte_eq_none {w : Word} :
    slotField (w.extractLsb' 0 8) = none ↔ 64 ≤ w.toNat % 256 ∧ w.toNat % 256 ≠ 255 := by
  have hbyte : (w.extractLsb' 0 8).toNat = w.toNat % 256 := by simp
  have h255 : w.extractLsb' 0 8 = 255 ↔ w.toNat % 256 = 255 := by rw [← BitVec.toNat_inj, hbyte]; rfl
  simp only [slotField, hbyte, h255]
  split_ifs with hslot hnone
  · simp only [false_iff]; omega
  · simp [hnone]
  · simp only [true_iff]; omega

/-- The slot a word's low byte names, if any. -/
theorem map_val_of_slotField_lowByte {w : Word} {slot : Option (Fin 64)}
    (h : slotField (w.extractLsb' 0 8) = some slot) :
    slot.map Fin.val = if w.toNat % 256 = 255 then none else some (w.toNat % 256) := by
  have hbyte : (w.extractLsb' 0 8).toNat = w.toNat % 256 := by simp
  unfold slotField at h
  split_ifs at h with hslot hnone
  · obtain rfl := Option.some.inj h
    exact (congrArg some hbyte).trans (if_neg (by omega)).symm
  · obtain rfl := Option.some.inj h
    rw [← hbyte, hnone]; rfl

theorem eq_none_iff_of_map_val {n : Nat} {slot : Option (Fin 64)}
    (hslot : slot.map Fin.val = if n = 255 then none else some n) : slot = none ↔ n = 255 := by
  rw [← Option.map_eq_none_iff (f := Fin.val), hslot]
  simp

theorem eq_some_iff_of_map_val {n : Nat} {slot : Option (Fin 64)}
    (hslot : slot.map Fin.val = if n = 255 then none else some n) (c : Fin 64) : slot = some c ↔ n = c.val := by
  have hmap : slot = some c ↔ slot.map Fin.val = some c.val :=
    (Option.map_injective Fin.val_injective).eq_iff.symm
  rw [hmap, hslot]
  split
  · simp only [reduceCtorEq, false_iff]; omega
  · simp

/-! ### The parts of the check -/

section
variable {s : State} {h : Held}

/-- R64's reasons 3 to 5. -/
theorem checkRawSource_answers (hraw : h.param 1 = 0) :
    answersChecks (s.setPointFails h) (setPointRefusal s.inputLimit) 3 6 (checkRawSource h s.inputLimit)
      h.namesSource := by
  rw [checkRawSource]
  rcases Nat.lt_or_ge (h.param 3).toNat 3 with hformat | hformat
  · rw [rawFormatOf_of_lt hformat]
    refine .pass (fun ⟨_, hbad⟩ => absurd hbad (Nat.not_le.2 hformat))
      (.ite (and_iff_right hraw) (by omega) (.ite ?_ (by omega) (.accept ⟨fun _ => rfl, fun hagg => ?_⟩)))
    · rw [namedFormat_least, namedFormat_greatest]
      exact and_iff_right hraw
    · exact absurd (hraw.symm.trans hagg) (by decide)
  · rw [rawFormatOf_of_le hformat]
    exact .refuse ⟨hraw, hformat⟩ (by omega)

/-- R64's reasons 6 to 8. -/
theorem checkAggregateSource_answers {i : Fin 256} (hi : i.val = (h.param 0).toNat) (hagg : h.param 1 = 1) (limit : Nat) :
    answersChecks (s.setPointFails h) (setPointRefusal limit) 6 9 (checkAggregateSource h i) h.namesSource := by
  refine .ite (and_iff_right hagg) (by omega) ?_
  rcases Nat.lt_or_ge (h.param 4).toNat 4 with hfn | hfn
  · rw [aggregateFnOf_of_lt hfn]
    refine .pass (fun ⟨_, hbad⟩ => absurd hbad (Nat.not_le.2 hfn))
      (.ite ((and_iff_right hagg).trans (by rw [hi])) (by omega) (.accept ⟨fun hraw => ?_, fun _ => rfl⟩))
    exact absurd (hraw.symm.trans hagg) (by decide)
  · rw [aggregateFnOf_of_le hfn]
    exact .refuse ⟨hagg, hfn⟩ (by omega)

/-- A RAW source has no reasons 2 and 6 to 8. -/
theorem State.setPointFails_of_raw (hraw : h.param 1 = 0) {k : Nat} (hk : 2 ≤ k) (hk' : k < 9)
    (hfail : s.setPointFails h k) : 3 ≤ k ∧ k < 6 := by
  interval_cases k <;> simp_all [State.setPointFails]

/-- An AGGREGATE has no reasons 2 to 5. -/
theorem State.setPointFails_of_aggregate (hagg : h.param 1 = 1) {k : Nat} (hk : 2 ≤ k) (hk' : k < 9)
    (hfail : s.setPointFails h k) : 6 ≤ k ∧ k < 9 := by
  interval_cases k <;> simp_all [State.setPointFails]

/-- R64's reasons 2 to 8. -/
theorem checkSource_answers {i : Fin 256} (hi : i.val = (h.param 0).toNat) :
    answersChecks (s.setPointFails h) (setPointRefusal s.inputLimit) 2 9 (checkSource h i s.inputLimit)
      h.namesSource := by
  rw [checkSource]
  split_ifs with hraw hagg
  · exact (checkRawSource_answers hraw).widen (by omega) (by omega) fun k => State.setPointFails_of_raw hraw
  · exact (checkAggregateSource_answers hi hagg _).widen (by omega) (by omega) fun k =>
      State.setPointFails_of_aggregate hagg
  · exact .refuse ⟨hraw, hagg⟩ (by omega)

/-- R64's reason 13 in the model's words. -/
theorem State.setPointFails_unwritten {zoneSet : Option (Fin 64)}
    (hzone : zoneSet.map Fin.val = if h.zoneSetField = 255 then none else some h.zoneSetField) :
    s.setPointFails h 13 ↔ ∃ z, zoneSet = some z ∧ s.zsv.sets[z].written = false := by
  simp only [State.setPointFails, eq_some_iff_of_map_val hzone]

/-- R64's reasons 9 to 14. -/
theorem checkBindings_answers {source : Source} (hsource : h.namesSource source) (limit : Nat) :
    answersChecks (s.setPointFails h) (setPointRefusal limit) 9 15 (checkBindings h s.zsv source) h.namesDefinition := by
  rw [checkBindings]
  cases hcurve : slotField ((h.param 6).extractLsb' 0 8) with
  | none => exact .refuse (slotField_lowByte_eq_none.1 hcurve) (by omega)
  | some curve =>
    have hcurve9 : ¬ s.setPointFails h 9 := fun hbad => by simp [slotField_lowByte_eq_none.2 hbad] at hcurve
    have hcurve' := map_val_of_slotField_lowByte hcurve
    refine .pass hcurve9 (.ite Iff.rfl (by omega)
      (.ite (and_congr_right' (eq_none_iff_of_map_val hcurve').symm) (by omega) ?_))
    cases hzone : slotField ((h.param 7).extractLsb' 0 8) with
    | none => exact .refuse (slotField_lowByte_eq_none.1 hzone) (by omega)
    | some zoneSet =>
      have hzone12 : ¬ s.setPointFails h 12 := fun hbad => by simp [slotField_lowByte_eq_none.2 hbad] at hzone
      have hzone' := map_val_of_slotField_lowByte hzone
      refine .pass hzone12 (.ite ?_ (by omega) (.ite Iff.rfl (by omega)
        (.accept ⟨hsource, hcurve', rfl, hzone', rfl⟩)))
      rw [State.setPointFails_unwritten hzone']
      cases zoneSet <;> simp

/-! ### The whole check -/

/-- The fourteen checks, without the check against the live body. -/
def State.checkReasons (s : State) (h : Held) : Except RefusedWith (Fin 256 × PointDef) :=
  match toIndex 256 (h.param 0) with
  | none => .error (badParam 1)
  | some i => do
    let source ← checkSource h i s.inputLimit
    let d ← checkBindings h s.zsv source
    return (i, d)

/-- The check against the live body comes last (R65). -/
theorem State.checkSetPoint_eq (s : State) (h : Held) :
    s.checkSetPoint h = s.checkReasons h >>= fun p => checkInvertible s.clb p.2 >>= fun _ => .ok p := by
  unfold State.checkSetPoint State.checkReasons
  cases toIndex 256 (h.param 0) with
  | none => rfl
  | some i => simp only [bind_assoc, pure_bind]; rfl

/-- The fourteen checks, in the order of their reasons (R64). -/
theorem State.checkReasons_answers (s : State) (h : Held) :
    answersChecks (s.setPointFails h) (setPointRefusal s.inputLimit) 1 15 (s.checkReasons h)
      fun p => p.1.val = (h.param 0).toNat ∧ h.namesDefinition p.2 := by
  rw [State.checkReasons]
  cases hindex : toIndex 256 (h.param 0) with
  | none =>
    have hbad : 256 ≤ (h.param 0).toNat := Nat.le_of_not_lt fun hlt => by simp [toIndex_of_lt hlt] at hindex
    exact .refuse hbad (by omega)
  | some i =>
    have hi := toIndex_eq_some hindex
    have hlegal : ¬ s.setPointFails h 1 := Nat.not_le.2 (hi ▸ i.isLt)
    refine .pass hlegal (.bind (checkSource_answers hi) (fun source hsource => ?_) (by omega) (by omega))
    exact .bind (checkBindings_answers hsource _) (fun d hd => .accept ⟨hi, hd⟩) (by omega) (by omega)

/-- There are no other reasons. -/
theorem State.setPointFails_range {k : Nat} (hfail : s.setPointFails h k) : 1 ≤ k ∧ k < 15 := by
  by_contra hk
  obtain rfl | ⟨n, rfl⟩ : k = 0 ∨ ∃ n, k = n + 15 := by
    rcases Nat.eq_zero_or_pos k with hzero | hpos
    · exact .inl hzero
    · exact .inr ⟨k - 15, by omega⟩
  all_goals exact hfail

/-- Bound INVERSE to a live body that is not invertible. -/
theorem checkInvertible_refuses {clb : Clb} {d : PointDef} {c : Fin 64} {body : Body} (hdir : d.direction = .inverse)
    (hcurve : d.curve = some c) (hbody : clb.slots[c].body = some body) (hinv : body.invertible = false) :
    checkInvertible clb d = .error (.notInvertible, [Word.ofNat body.shape.kindCode]) := by
  simp only [checkInvertible, hdir, hcurve, hbody, hinv, Bool.false_eq_true, if_false]

/-- No other binding is refused. -/
theorem checkInvertible_accepts {clb : Clb} {d : PointDef}
    (hinv : ∀ c body, d.curve = some c → d.direction = .inverse → clb.slots[c].body = some body →
      body.invertible = true) : checkInvertible clb d = .ok () := by
  unfold checkInvertible
  split
  · next c hdir hcurve =>
    split
    · next body hbody => rw [if_pos (hinv c body hcurve hdir hbody)]
    · rfl
  · rfl
  · rfl

theorem State.beginWork_setPoint (hk : h.kind = 6) : s.beginWork h = s.workSetPoint h := by
  rw [State.beginWork, hk]; rfl

theorem State.workSetPoint_of_error {r : RefusedWith} (hc : s.checkSetPoint h = .error r) :
    s.workSetPoint h = s.finish h r.1 r.2 := by
  rw [State.workSetPoint, hc]; rfl

theorem State.workSetPoint_of_ok {i : Fin 256} {d : PointDef} (hc : s.checkSetPoint h = .ok (i, d)) :
    s.workSetPoint h = s.reachApply h (.setPoint i d) := by
  rw [State.workSetPoint, hc]

end

/-- Settles O35: the fourteen checks answer in order (`checkReasons_answers`), and the check against the live body follows. -/
theorem setPointIsChecked : Obligations.SetPointIsChecked := by
  intro s a h w hscan hheld ha hop hadmitted hplaced hk u result p limit curve direction zoneSet window raw aggregate
    least greatest fails
  have hready : u.ready := State.workBegins_ready ⟨hadmitted, hplaced⟩ a w
  have hresult : result = .next (u.workSetPoint h).settle :=
    State.beginWork_setPoint (s := u) hk ▸ exec_lastTakenTicketWriteAnswer_done hscan hheld ha hop
  have refused {r : RefusedWith} (hc : u.checkSetPoint h = .error r) : result = .next (u.finishing h r.1 r.2) := by
    rw [hresult, State.workSetPoint_of_error hc, State.settle_finish hready]
  obtain ⟨hrefused, hpassed⟩ := u.checkReasons_answers h
  refine ⟨fun reason hfail hfirst => ?_, fun hnone => ?_⟩
  · obtain ⟨hlo, hhi⟩ := State.setPointFails_range hfail
    have hreason := hrefused reason hlo hhi hfail fun j _ hj => hfirst j hj
    exact refused (r := setPointRefusal limit reason) (by rw [State.checkSetPoint_eq, hreason]; rfl)
  · obtain ⟨⟨i, d⟩, hok, hi, hd⟩ := hpassed fun k _ _ => hnone k
    obtain ⟨⟨hraw, haggregate⟩, hcurve, hdirection, hzone, hwindow⟩ := hd
    have hchecked : u.checkSetPoint h = checkInvertible s.clb d >>= fun _ => .ok (i, d) := by
      rw [State.checkSetPoint_eq, hok]; rfl
    refine ⟨fun c body hc hdir hbody hinv => ?_, fun hinv => ?_⟩
    · have hinverse : d.direction = .inverse := hdirection.trans (if_pos hdir)
      refine refused (r := (.notInvertible, _)) (hchecked.trans ?_)
      rw [checkInvertible_refuses hinverse ((eq_some_iff_of_map_val hcurve c).2 hc) hbody hinv]
      rfl
    · have haccepted : checkInvertible s.clb d = .ok () := by
        refine checkInvertible_accepts fun c body hc hinverse hbody =>
          hinv c body ((eq_some_iff_of_map_val hcurve c).1 hc) ?_ hbody
        by_contra hforward
        exact absurd (hinverse.symm.trans (hdirection.trans (if_neg hforward))) (by decide)
      have hworks := State.workSetPoint_of_ok (hchecked.trans (by rw [haccepted]; rfl))
      exact ⟨i, d, _, hresult, hworks ▸ State.settle_reachApply hready h _, hi, hraw, haggregate, hcurve, hdirection,
        hzone, hwindow⟩

end Sys2Proof.Machine

/-! The four steps of one conversion (chapter 3.3): source, curve, history and usability (R53 to R61). -/
namespace Sys2Proof.Machine

/-! ### Values within a word -/

theorem ofInt_toInt_of_inRange {v : Int} (lo : -2147483648 ≤ v) (hi : v ≤ 2147483647) :
    (BitVec.ofInt 32 v : Word).toInt = v :=
  BitVec.toInt_ofInt_eq_self (by omega) (by omega) (by omega)

/-- The truncated mean of words is within a word. -/
theorem mean_inRange {words : List Word} (h : words ≠ []) :
    -2147483648 ≤ ((words.map BitVec.toInt).sum).tdiv words.length
    ∧ ((words.map BitVec.toInt).sum).tdiv words.length ≤ 2147483647 := by
  have hpos : (0 : Int) < words.length := Int.natCast_pos.2 (List.length_pos_iff.2 h)
  have hrange : ∀ v ∈ words.map BitVec.toInt, -2147483648 ≤ v ∧ v ≤ 2147483647 := by
    simp only [List.forall_mem_map]
    exact fun w _ => word_toInt_inRange w
  have hlo := List.card_nsmul_le_sum _ _ fun v hv => (hrange v hv).1
  have hhi := List.sum_le_card_nsmul _ _ fun v hv => (hrange v hv).2
  simp only [List.length_map, nsmul_eq_mul, Int.mul_comm (words.length : Int)] at hlo hhi
  constructor
  · rw [← Int.mul_tdiv_cancel (-2147483648) hpos.ne']
    exact Int.tdiv_le_tdiv hpos hlo
  · rw [← Int.mul_tdiv_cancel 2147483647 hpos.ne']
    exact Int.tdiv_le_tdiv hpos hhi

theorem ofInt_mean_toInt {words : List Word} (h : words ≠ []) :
    (BitVec.ofInt 32 (truncatedQuotient ((words.map BitVec.toInt).sum) words.length) : Word).toInt
      = ((words.map BitVec.toInt).sum).tdiv words.length :=
  ofInt_toInt_of_inRange (mean_inRange h).1 (mean_inRange h).2

/-! ### The source step (R54 to R57) -/

/-- R55; a reading inside its span is within a word, since the span's ends are words. -/
theorem rawSource_spec (f : RawFormat) (lo hi w : Word) :
    (lo.toInt ≤ f.reading w → f.reading w ≤ hi.toInt →
      ∃ v : Word, rawSource f lo hi w = .value v .good ∧ v.toInt = f.reading w)
    ∧ (f.reading w < lo.toInt ∨ hi.toInt < f.reading w → rawSource f lo hi w = .unusable .badRaw) := by
  have hleast := word_toInt_inRange lo
  have hgreatest := word_toInt_inRange hi
  refine ⟨fun hlo hhi => ⟨_, if_pos ⟨hlo, hhi⟩, ofInt_toInt_of_inRange (by omega) (by omega)⟩, fun hout => ?_⟩
  exact if_neg (by omega)

theorem reading_u16 (w : Word) : RawFormat.u16.reading w = (w.toNat : Int) % 65536 := by
  simp [RawFormat.reading]

theorem aggregateSource_nil (fn : AggregateFn) : aggregateSource fn [] = .unusable .noSource := rfl

section
variable {words : List Word} (hwords : words ≠ [])
include hwords

theorem aggregateSource_mean : ∃ v : Word, aggregateSource .mean (words.map BitVec.toInt) = .value v .good
    ∧ v.toInt = ((words.map BitVec.toInt).sum).tdiv (words.map BitVec.toInt).length := by
  rw [List.length_map]
  refine ⟨_, ?_, ofInt_mean_toInt hwords⟩
  obtain ⟨w, ws, rfl⟩ := List.exists_cons_of_ne_nil hwords
  simp [aggregateSource]

/-- The sum in R57's three ranges. -/
theorem aggregateSource_sum : aggregateSource .sum (words.map BitVec.toInt)
    = if 2147483647 < (words.map BitVec.toInt).sum then .value 0x7FFFFFFF .clamped
      else if (words.map BitVec.toInt).sum < -2147483648 then .value 0x80000000 .clamped
      else .value (BitVec.ofInt 32 (words.map BitVec.toInt).sum) .good := by
  obtain ⟨w, ws, rfl⟩ := List.exists_cons_of_ne_nil hwords
  rw [List.map_cons, aggregateSource, saturate]
  split_ifs <;> rfl

theorem aggregateSource_min : ∃ v ∈ words,
    aggregateSource .min (words.map BitVec.toInt) = .value v .good ∧ ∀ x ∈ words, v.toInt ≤ x.toInt := by
  obtain ⟨w, ws, rfl⟩ := List.exists_cons_of_ne_nil hwords
  obtain ⟨hmem, hleast⟩ := List.min?_eq_some_iff.1 (List.min?_cons' (x := w.toInt) (xs := ws.map BitVec.toInt))
  rw [← List.map_cons] at hmem hleast
  obtain ⟨v, hv, heq⟩ := List.mem_map.1 hmem
  refine ⟨v, hv, ?_, fun x hx => heq ▸ hleast _ (List.mem_map_of_mem hx)⟩
  rw [List.map_cons, aggregateSource, ← heq, BitVec.ofInt_toInt]

theorem aggregateSource_max : ∃ v ∈ words,
    aggregateSource .max (words.map BitVec.toInt) = .value v .good ∧ ∀ x ∈ words, x.toInt ≤ v.toInt := by
  obtain ⟨w, ws, rfl⟩ := List.exists_cons_of_ne_nil hwords
  obtain ⟨hmem, hmost⟩ := List.max?_eq_some_iff.1 (List.max?_cons' (x := w.toInt) (xs := ws.map BitVec.toInt))
  rw [← List.map_cons] at hmem hmost
  obtain ⟨v, hv, heq⟩ := List.mem_map.1 hmem
  refine ⟨v, hv, ?_, fun x hx => heq ▸ hmost _ (List.mem_map_of_mem hx)⟩
  rw [List.map_cons, aggregateSource, ← heq, BitVec.ofInt_toInt]

end

/-! ### The curve step (R58) -/

/-- An evaluation that gives a value with a usable quality. -/
def CurveResult.isUsableValue (r : CurveResult) : Prop :=
  ∃ v q, r = .value v q ∧ (q = .good ∨ q = .cutoff ∨ q = .clamped)

theorem CurveResult.isUsableValue_good (v : Word) : (CurveResult.value v .good).isUsableValue := ⟨v, _, rfl, .inl rfl⟩

theorem CurveResult.isUsableValue_cutoff (v : Word) : (CurveResult.value v .cutoff).isUsableValue :=
  ⟨v, _, rfl, .inr (.inl rfl)⟩

theorem CurveResult.isUsableValue_clamped (v : Word) : (CurveResult.value v .clamped).isUsableValue :=
  ⟨v, _, rfl, .inr (.inr rfl)⟩

/-- A pinned end, GOOD on it and CLAMPED beyond. -/
theorem CurveResult.isUsableValue_pinned (v : Word) (p : Prop) [Decidable p] :
    (CurveResult.value v (if p then .good else .clamped)).isUsableValue := by
  split
  · exact isUsableValue_good v
  · exact isUsableValue_clamped v

theorem finalResult_isUsableValue (v : Int) : (finalResult v).isUsableValue := by
  rw [finalResult_eq]
  split_ifs
  · exact CurveResult.isUsableValue_clamped _
  · exact CurveResult.isUsableValue_clamped _
  · exact CurveResult.isUsableValue_good _

theorem evalLinear2_isUsableValue (aLo aHi bLo bHi : Word) (clamp : Bool) (input : Word) :
    (evalLinear2 aLo aHi bLo bHi clamp input).isUsableValue := by
  simp only [evalLinear2]
  generalize (if aLo.toInt ≤ aHi.toInt then bLo else bHi) = lowEnd
  generalize (if aLo.toInt ≤ aHi.toInt then bHi else bLo) = highEnd
  split_ifs
  · exact CurveResult.isUsableValue_clamped _
  · exact CurveResult.isUsableValue_clamped _
  · exact finalResult_isUsableValue _

theorem evalRoot_isUsableValue (x0 c m y0 input : Word) : (evalRoot x0 c m y0 input).isUsableValue := by
  rw [evalRoot]
  split_ifs
  · exact CurveResult.isUsableValue_cutoff _
  · exact finalResult_isUsableValue _

theorem evalSegmentsAlong_isUsableValue (key value : Pair → Word) (descending : Bool) (p : Pair) (rest : List Pair)
    (v : Int) : (evalSegmentsAlong key value descending p rest v).isUsableValue := by
  induction rest generalizing p with
  | nil => exact CurveResult.isUsableValue_pinned _ _
  | cons q rest ih =>
    rw [evalSegmentsAlong]
    split_ifs
    · exact finalResult_isUsableValue _
    · exact ih q

theorem evalTable_isUsableValue (key value : Pair → Word) (descending : Bool) (first : Pair) (rest : List Pair)
    (v : Int) : (evalTable key value descending first rest v).isUsableValue := by
  rw [evalTable]
  split_ifs
  · exact CurveResult.isUsableValue_clamped _
  · exact evalSegmentsAlong_isUsableValue _ _ _ _ _ _

/-- The free value of log entry 8 has a usable quality, too. -/
theorem evalUndefinedInverse_isUsableValue (shape : CurveShape) (input : Word) :
    (evalUndefinedInverse shape input).isUsableValue := by
  rw [evalUndefinedInverse]
  split
  · exact CurveResult.isUsableValue_good _
  · exact CurveResult.isUsableValue_clamped _
  · exact CurveResult.isUsableValue_cutoff _

theorem evalSegmentedInverse_isUsableValue (first : Pair) (rest : List Pair) (input : Word) :
    (evalSegmentedInverse first rest input).isUsableValue := by
  rw [evalSegmentedInverse, evalSegmentsAscending_eq, evalSegmentsDescending_eq]
  split_ifs
  · exact CurveResult.isUsableValue_clamped _
  · exact evalSegmentsAlong_isUsableValue _ _ _ _ _ _
  · exact CurveResult.isUsableValue_clamped _
  · exact evalSegmentsAlong_isUsableValue _ _ _ _ _ _

/-- Every evaluation of a live body gives a usable value. -/
theorem CurveShape.eval_isUsableValue (shape : CurveShape) (dir : Direction) (input : Word) :
    (shape.eval dir input).isUsableValue := by
  cases dir with
  | forward =>
    cases shape with
    | linear2 => exact evalLinear2_isUsableValue _ _ _ _ _ _
    | ratio => exact finalResult_isUsableValue _
    | root => exact evalRoot_isUsableValue _ _ _ _ _
    | segmented => exact eval_segmented_forward _ _ _ ▸ evalTable_isUsableValue _ _ _ _ _ _
  | inverse =>
    cases shape with
    | linear2 =>
      rw [CurveShape.eval]
      split_ifs
      · exact evalUndefinedInverse_isUsableValue _ _
      · exact evalLinear2_isUsableValue _ _ _ _ _ _
    | ratio => exact finalResult_isUsableValue _
    | root => exact evalUndefinedInverse_isUsableValue _ _
    | segmented =>
      rw [CurveShape.eval]
      split_ifs
      · exact evalSegmentedInverse_isUsableValue _ _ _
      · exact evalUndefinedInverse_isUsableValue _ _

theorem Clb.evaluate_of_empty {clb : Clb} {c : Fin 64} (h : clb.slots[c].body = none) (dir : Direction) (input : Word) :
    clb.evaluate (some c) dir input = .noCurve := by
  simp only [Clb.evaluate, h]

theorem Clb.evaluate_of_live {clb : Clb} {c : Fin 64} {body : Body} (h : clb.slots[c].body = some body)
    (dir : Direction) (input : Word) : clb.evaluate (some c) dir input = body.shape.eval dir input := by
  simp only [Clb.evaluate, h]

section
variable {clb : Clb} {d : PointDef} {v : Word} (q : Quality)

theorem curveStep_of_noCurve (h : clb.evaluate d.curve d.direction v = .noCurve) :
    curveStep clb d (.value v q) = .unusable .noCurve := by
  simp only [curveStep, h]

theorem curveStep_of_value {v' : Word} {q' : Quality} (h : clb.evaluate d.curve d.direction v = .value v' q') :
    curveStep clb d (.value v q) = .usable v' (worseQuality q q') := by
  simp only [curveStep, h]

end

/-! ### The history step and the usability step (R59 to R61) -/

theorem joinHistory_eq (window : Nat) (history : List Word) (x : Word) :
    joinHistory window history x = (if history.length = window then history.drop 1 else history) ++ [x] := by
  rw [joinHistory, List.drop_one]

theorem joinHistory_ne_nil (window : Nat) (history : List Word) (x : Word) : joinHistory window history x ≠ [] := by
  simp [joinHistory]

theorem historyMean_toInt {history : List Word} (h : history ≠ []) :
    (historyMean history).toInt = ((history.map BitVec.toInt).sum).tdiv history.length :=
  ofInt_mean_toInt h

/-- POINT_GOOD arises at the change from unusable alone. -/
theorem usabilityEvent_usable (last : Usability) :
    usabilityEvent last true = if last = .unusable then some .pointGood else none := by
  cases last <;> rfl

/-- POINT_BAD arises at the change to unusable alone. -/
theorem usabilityEvent_unusable (last : Usability) :
    usabilityEvent last false = if last = .unusable then none else some .pointBad := by
  cases last <;> rfl

/-! ### The four steps -/

/-- Settles O49: each clause is the lemma of its step and case. -/
theorem readingsHistoriesAndUsability : Obligations.ReadingsHistoriesAndUsability := by
  refine ⟨rfl, fun f lo hi w => ?_, by decide, aggregateSource_nil, fun words hwords => ?_, fun clb dir input => ?_,
    fun clb d v q => ?_, fun p n x q _ _ => ?_, fun p n q => ?_, fun i value passNumber q k => rfl⟩
  · have hspec := rawSource_spec f lo hi w
    cases f with
    | s16 => exact hspec
    | u16 =>
      rw [reading_u16] at hspec
      exact hspec
    | s32 => exact hspec
  · have hsum := aggregateSource_sum hwords
    refine ⟨aggregateSource_mean hwords, fun hlo hhi => ?_, fun hhi => ?_, fun hlo => ?_, aggregateSource_min hwords,
      aggregateSource_max hwords⟩
    · rw [if_neg (Int.not_lt.2 hhi), if_neg (Int.not_lt.2 hlo)] at hsum
      exact ⟨_, hsum, ofInt_toInt_of_inRange hlo hhi⟩
    · rwa [if_pos hhi] at hsum
    · rwa [if_neg (by omega), if_pos hlo] at hsum
  · exact ⟨rfl, fun c => ⟨fun hempty => Clb.evaluate_of_empty hempty dir input, fun body hlive =>
      ⟨Clb.evaluate_of_live hlive dir input, body.shape.eval_isUsableValue dir input⟩⟩⟩
  · refine ⟨rfl, curveStep_of_noCurve q, fun v' q' hvalue => ⟨?_, ?_⟩⟩
    · rintro rfl
      exact curveStep_of_value _ hvalue
    · rintro rfl
      exact curveStep_of_value _ hvalue
  · exact ⟨rfl, joinHistory_eq n p.history x, historyMean_toInt (joinHistory_ne_nil n p.history x), rfl, rfl,
      usabilityEvent_usable p.usability⟩
  · exact ⟨rfl, rfl, usabilityEvent_unusable p.usability⟩

end Sys2Proof.Machine

/-! The zone supervisor's moves (R79 to R84): the classes of a value as inequalities, the moves from INSIDE that other states share,
one equation per zone state, and the evaluation of a point by its value's quality. -/
namespace Sys2Proof.Machine

/-! ### The classes of a value (R79) -/

@[simp] theorem ZoneSet.above_iff (z : ZoneSet) (v : Int) : z.above v = true ↔ z.upper.toInt < v := decide_eq_true_iff

@[simp] theorem ZoneSet.below_iff (z : ZoneSet) (v : Int) : z.below v = true ↔ v < z.lower.toInt := decide_eq_true_iff

@[simp] theorem ZoneSet.returnedFromHigh_iff (z : ZoneSet) (v : Int) :
    z.returnedFromHigh v = true ↔ v ≤ z.upper.toInt - z.hysteresis.toNat := decide_eq_true_iff

@[simp] theorem ZoneSet.returnedFromLow_iff (z : ZoneSet) (v : Int) :
    z.returnedFromLow v = true ↔ z.lower.toInt + z.hysteresis.toNat ≤ v := decide_eq_true_iff

/-! ### The moves from INSIDE (R80), which R81 and R82 go on with -/

/-- `m` is the move of `v` from INSIDE with this mark, after the events `before`. -/
def ZoneSet.MovesFromInside (z : ZoneSet) (v : Int) (m : ZoneMove) (mark : Bool) (before : List EventKind) : Prop :=
  (z.upper.toInt < v → z.dwell = 1 → m = ⟨⟨.high, mark⟩, before ++ [.highEnter]⟩)
  ∧ (z.upper.toInt < v → z.dwell ≠ 1 → m = ⟨⟨.highPending 1, mark⟩, before⟩)
  ∧ (¬z.upper.toInt < v → v < z.lower.toInt → z.dwell = 1 → m = ⟨⟨.low, mark⟩, before ++ [.lowEnter]⟩)
  ∧ (¬z.upper.toInt < v → v < z.lower.toInt → z.dwell ≠ 1 → m = ⟨⟨.lowPending 1, mark⟩, before⟩)
  ∧ (¬z.upper.toInt < v → ¬v < z.lower.toInt → m = ⟨⟨.inside, mark⟩, before⟩)

section
variable (z : ZoneSet) (v : Int)

theorem ZoneSet.fromInside_eq (mark : Bool) :
    z.fromInside v mark =
      if z.upper.toInt < v then
        if z.dwell = 1 then ⟨⟨.high, mark⟩, [.highEnter]⟩ else ⟨⟨.highPending 1, mark⟩, []⟩
      else if v < z.lower.toInt then
        if z.dwell = 1 then ⟨⟨.low, mark⟩, [.lowEnter]⟩ else ⟨⟨.lowPending 1, mark⟩, []⟩
      else ⟨⟨.inside, mark⟩, []⟩ := by
  simp only [ZoneSet.fromInside, ZoneSet.above_iff, ZoneSet.below_iff]

theorem ZoneSet.fromInside_movesFromInside (mark : Bool) : z.MovesFromInside v (z.fromInside v mark) mark [] := by
  rw [fromInside_eq]
  refine ⟨fun ha hd => ?_, fun ha hd => ?_, fun ha hb hd => ?_, fun ha hb hd => ?_, fun ha hb => ?_⟩
  · rw [if_pos ha, if_pos hd, List.nil_append]
  · rw [if_pos ha, if_neg hd]
  · rw [if_neg ha, if_pos hb, if_pos hd, List.nil_append]
  · rw [if_neg ha, if_pos hb, if_neg hd]
  · rw [if_neg ha, if_neg hb]

/-- Leaving HIGH or LOW is the move from INSIDE with the mark clear, its LEAVE event first (R82). -/
theorem ZoneSet.leave_movesFromInside (event : EventKind) : z.MovesFromInside v (z.leave v event) false [event] := by
  obtain ⟨high, highPending, low, lowPending, inside⟩ := z.fromInside_movesFromInside v false
  have leave_of {m : ZoneMove} (h : z.fromInside v false = m) : z.leave v event = ⟨m.zone, event :: m.events⟩ := h ▸ rfl
  exact ⟨fun ha hd => leave_of (high ha hd), fun ha hd => leave_of (highPending ha hd),
    fun ha hb hd => leave_of (low ha hb hd), fun ha hb hd => leave_of (lowPending ha hb hd),
    fun ha hb => leave_of (inside ha hb)⟩

end

/-! ### The move of a usable value, state by state (R80 to R83) -/

section
variable (z : ZoneSet) {p : PointZone} (v : Int)

theorem ZoneSet.moveUsable_of_unknown_or_inside (h : p.state = .unknown ∨ p.state = .inside) :
    z.moveUsable p v = z.fromInside v p.acked := by
  rcases h with h | h <;> simp only [ZoneSet.moveUsable, h]

theorem ZoneSet.moveUsable_of_highPending {k : Nat} (h : p.state = .highPending k) :
    z.moveUsable p v =
      if z.upper.toInt < v then
        if k + 1 = z.dwell then ⟨⟨.high, p.acked⟩, [.highEnter]⟩ else ⟨⟨.highPending (k + 1), p.acked⟩, []⟩
      else z.fromInside v p.acked := by
  simp only [ZoneSet.moveUsable, h, ZoneSet.above_iff]

theorem ZoneSet.moveUsable_of_lowPending {k : Nat} (h : p.state = .lowPending k) :
    z.moveUsable p v =
      if v < z.lower.toInt then
        if k + 1 = z.dwell then ⟨⟨.low, p.acked⟩, [.lowEnter]⟩ else ⟨⟨.lowPending (k + 1), p.acked⟩, []⟩
      else z.fromInside v p.acked := by
  simp only [ZoneSet.moveUsable, h, ZoneSet.below_iff]

theorem ZoneSet.moveUsable_of_high (h : p.state = .high) :
    z.moveUsable p v =
      if v ≤ z.upper.toInt - z.hysteresis.toNat then
        if z.latch = true ∧ p.acked = false then ⟨⟨.highHeld, p.acked⟩, []⟩ else z.leave v .highLeave
      else ⟨p, []⟩ := by
  simp only [ZoneSet.moveUsable, h, ZoneSet.returnedFromHigh_iff, Bool.and_eq_true, Bool.not_eq_true']

theorem ZoneSet.moveUsable_of_low (h : p.state = .low) :
    z.moveUsable p v =
      if z.lower.toInt + z.hysteresis.toNat ≤ v then
        if z.latch = true ∧ p.acked = false then ⟨⟨.lowHeld, p.acked⟩, []⟩ else z.leave v .lowLeave
      else ⟨p, []⟩ := by
  simp only [ZoneSet.moveUsable, h, ZoneSet.returnedFromLow_iff, Bool.and_eq_true, Bool.not_eq_true']

theorem ZoneSet.moveUsable_of_highHeld (h : p.state = .highHeld) :
    z.moveUsable p v = if z.upper.toInt < v then ⟨⟨.high, false⟩, []⟩ else ⟨p, []⟩ := by
  simp only [ZoneSet.moveUsable, h, ZoneSet.above_iff]

theorem ZoneSet.moveUsable_of_lowHeld (h : p.state = .lowHeld) :
    z.moveUsable p v = if v < z.lower.toInt then ⟨⟨.low, false⟩, []⟩ else ⟨p, []⟩ := by
  simp only [ZoneSet.moveUsable, h, ZoneSet.below_iff]

end

/-- R82's condition for leaving excludes its condition for being held. -/
theorem not_held_of_leaves {latch acked : Bool} (h : latch = false ∨ acked = true) :
    ¬(latch = true ∧ acked = false) := by
  rintro ⟨rfl, rfl⟩
  simp at h

/-! ### The move of an unusable value (R84) -/

theorem PointZone.moveUnusable_of_pending {p : PointZone} {k : Nat}
    (h : p.state = .highPending k ∨ p.state = .lowPending k) : p.moveUnusable = ⟨.inside, p.acked⟩ := by
  rcases h with h | h <;> simp only [PointZone.moveUnusable, h]

theorem PointZone.moveUnusable_of_not_pending {p : PointZone}
    (h : ∀ k, p.state ≠ .highPending k ∧ p.state ≠ .lowPending k) : p.moveUnusable = p := by
  unfold PointZone.moveUnusable
  split
  next k hk => exact absurd hk (h k).1
  next k hk => exact absurd hk (h k).2
  all_goals rfl

/-! ### The evaluation of a point with a zone set -/

section
variable (zsv : Zsv) (z : Fin 64) (p : PointZone) (value : Word) {q : Quality}

theorem Zsv.evaluate_of_usable (h : q.isUsable = true) :
    zsv.evaluate (some z) p value q = (zsv.sets[z]).moveUsable p value.toInt := by
  simp only [Zsv.evaluate, h, if_true]

theorem Zsv.evaluate_of_unusable (h : q.isUsable = false) :
    zsv.evaluate (some z) p value q = ⟨p.moveUnusable, []⟩ := by
  simp only [Zsv.evaluate, h, Bool.false_eq_true, if_false]

end

/-- Settles O50: a usable value moves the point by the equation of its state, with the moves from INSIDE where the state goes on
with them. -/
theorem zonesMoveByTheirTable : Obligations.ZonesMoveByTheirTable := by
  refine ⟨fun k => rfl, rfl, fun zsv z p value q => ⟨rfl, fun husable => ?_, fun hunusable => ?_⟩⟩
  · rw [Zsv.evaluate_of_usable zsv z p value husable]
    generalize zsv.sets[z] = set
    generalize value.toInt = v
    have inside_moves (mark : Bool) := set.fromInside_movesFromInside v mark
    refine ⟨fun hstate => ?unknownOrInside, fun k hstate => ?highPending, fun k hstate => ?lowPending,
      fun hstate => ?high, fun hstate => ?low, fun hstate => ?highHeld, fun hstate => ?lowHeld⟩
    case unknownOrInside =>
      rw [set.moveUsable_of_unknown_or_inside v hstate]
      exact inside_moves p.acked
    case highPending =>
      rw [set.moveUsable_of_highPending v hstate]
      exact ⟨fun ha hk => by rw [if_pos ha, if_pos hk], fun ha hk => by rw [if_pos ha, if_neg hk],
        fun ha => by rw [if_neg ha]; exact inside_moves p.acked⟩
    case lowPending =>
      rw [set.moveUsable_of_lowPending v hstate]
      exact ⟨fun hb hk => by rw [if_pos hb, if_pos hk], fun hb hk => by rw [if_pos hb, if_neg hk],
        fun hb => by rw [if_neg hb]; exact inside_moves p.acked⟩
    case high =>
      rw [set.moveUsable_of_high v hstate]
      exact ⟨fun hr => if_neg hr, fun hr hlatch hacked => by rw [if_pos hr, if_pos ⟨hlatch, hacked⟩, hacked],
        fun hr hleaves => by
          rw [if_pos hr, if_neg (not_held_of_leaves hleaves)]
          exact set.leave_movesFromInside v .highLeave⟩
    case low =>
      rw [set.moveUsable_of_low v hstate]
      exact ⟨fun hr => if_neg hr, fun hr hlatch hacked => by rw [if_pos hr, if_pos ⟨hlatch, hacked⟩, hacked],
        fun hr hleaves => by
          rw [if_pos hr, if_neg (not_held_of_leaves hleaves)]
          exact set.leave_movesFromInside v .lowLeave⟩
    case highHeld =>
      rw [set.moveUsable_of_highHeld v hstate]
      exact ⟨fun ha => if_pos ha, fun ha => if_neg ha⟩
    case lowHeld =>
      rw [set.moveUsable_of_lowHeld v hstate]
      exact ⟨fun hb => if_pos hb, fun hb => if_neg hb⟩
  · rw [Zsv.evaluate_of_unusable zsv z p value hunusable]
    exact ⟨fun ⟨_, hpending⟩ => by rw [PointZone.moveUnusable_of_pending hpending],
      fun hother => by rw [PointZone.moveUnusable_of_not_pending hother]⟩

end Sys2Proof.Machine

/-! The request table: a slot's ticket against the expected one (R146). -/
namespace Sys2Proof.Machine

/-- The word difference `ticketClass` looks at is the manual's d = (e − t) mod 65,536. -/
theorem toNat_expected_sub_ticket (e t : BitVec 16) :
    (e - t).toNat = (e.toNat + 65536 - t.toNat) % 65536 := by
  have ht : t.toNat < 65536 := t.isLt
  rw [BitVec.toNat_sub]
  omega

section
variable {e t : BitVec 16}

theorem ticketClass_of_equal (h : (e - t).toNat = 0) : ticketClass e t = .candidate := if_pos h

theorem ticketClass_of_behind (hpos : 1 ≤ (e - t).toNat) (hhalf : (e - t).toNat ≤ 32768) :
    ticketClass e t = .stale := by
  have hne : (e - t).toNat ≠ 0 := by omega
  simp only [ticketClass, if_neg hne, if_pos hhalf]

theorem ticketClass_of_past_half (h : 32769 ≤ (e - t).toNat) : ticketClass e t = .ahead := by
  have hne : (e - t).toNat ≠ 0 := by omega
  have hhalf : ¬ (e - t).toNat ≤ 32768 := by omega
  simp only [ticketClass, if_neg hne, if_neg hhalf]

end

/-- Settles O51: the ranges of d are the branches of `ticketClass`. -/
theorem ticketsAreClassified : Obligations.TicketsAreClassified := by
  intro e t
  rw [← toNat_expected_sub_ticket]
  exact ⟨ticketClass_of_equal, ticketClass_of_behind, ticketClass_of_past_half⟩

end Sys2Proof.Machine

/-! What a step can do, said once: the work each client takes up at the answer to its access, and the ways a command changes the
state. The laws that every step keeps are proved from this list. -/
namespace Sys2Proof.Machine

/-! ### The answer to an access -/

/-- The state in which the reader of access `a` takes the word `w`. -/
def State.readDone (s : State) (a : Access) (w : Word) : State :=
  s.answered (Memory.writeWord s.window (s.busAddress a.offset) w)

/-- The state in which the writer of access `a` goes on. -/
def State.writeDone (s : State) (a : Access) : State := s.answered (s.completedAccess a).window

/-- The state in which the failure of access `a` is dealt with. -/
def State.failDone (s : State) (a : Access) : State := s.endInFlight.failedAccess a

theorem State.completedAccess_endInFlight (s : State) (a : Access) : s.endInFlight.completedAccess a = s.writeDone a := by
  unfold State.writeDone State.completedAccess
  cases a.op.written <;> rfl

/-- An answer changes BIP and the window alone. -/
@[simp] theorem State.answered_frame (s : State) (m : Memory) :
    (s.answered m).eng = s.eng ∧ (s.answered m).rqh = s.rqh ∧ (s.answered m).clb = s.clb ∧ (s.answered m).ptb = s.ptb
    ∧ (s.answered m).zsv = s.zsv ∧ (s.answered m).pse = s.pse ∧ (s.answered m).evr = s.evr
    ∧ (s.answered m).bip = s.bip.ended ∧ (s.answered m).window = m ∧ (s.answered m).freeIndex = s.freeIndex
    ∧ (s.answered m).pending = s.pending :=
  ⟨rfl, rfl, rfl, rfl, rfl, rfl, rfl, rfl, rfl, rfl, rfl⟩

@[simp] theorem State.readDone_frame (s : State) (a : Access) (w : Word) :
    (s.readDone a w).eng = s.eng ∧ (s.readDone a w).rqh = s.rqh ∧ (s.readDone a w).clb = s.clb
    ∧ (s.readDone a w).ptb = s.ptb ∧ (s.readDone a w).zsv = s.zsv ∧ (s.readDone a w).pse = s.pse
    ∧ (s.readDone a w).evr = s.evr ∧ (s.readDone a w).bip = s.bip.ended
    ∧ (s.readDone a w).window = Memory.writeWord s.window (s.busAddress a.offset) w
    ∧ (s.readDone a w).freeIndex = s.freeIndex ∧ (s.readDone a w).pending = s.pending :=
  s.answered_frame _

@[simp] theorem State.writeDone_frame (s : State) (a : Access) :
    (s.writeDone a).eng = s.eng ∧ (s.writeDone a).rqh = s.rqh ∧ (s.writeDone a).clb = s.clb
    ∧ (s.writeDone a).ptb = s.ptb ∧ (s.writeDone a).zsv = s.zsv ∧ (s.writeDone a).pse = s.pse
    ∧ (s.writeDone a).evr = s.evr ∧ (s.writeDone a).bip = s.bip.ended
    ∧ (s.writeDone a).window = (s.completedAccess a).window
    ∧ (s.writeDone a).freeIndex = s.freeIndex ∧ (s.writeDone a).pending = s.pending :=
  s.answered_frame _

@[simp] theorem State.failDone_frame (s : State) (a : Access) :
    (s.failDone a).eng = s.eng ∧ (s.failDone a).rqh = s.rqh ∧ (s.failDone a).clb = s.clb
    ∧ (s.failDone a).ptb = s.ptb ∧ (s.failDone a).zsv = s.zsv ∧ (s.failDone a).pse = s.pse
    ∧ (s.failDone a).evr = s.evr ∧ (s.failDone a).bip = s.bip.ended ∧ (s.failDone a).pending = s.pending := by
  simp [State.failDone, Bip.ended]

/-! ### The clients' work -/

/-- `s.ClientWork a o u`: the answer to the access `a` of owner `o`, in the stage of its work that awaits it, takes that work on
to `u`, in which the step goes on to the grant. -/
inductive State.ClientWork (s : State) (a : Access) : Owner → State → Prop
  | attachWord (w : Word) : s.ClientWork a .eng ((s.readDone a w).attachWordRead w)
  | startStamp (w : Word) (stage : s.pse.pass = some .startStamp) :
    s.ClientWork a (.client .pse) ((s.readDone a w).startStampRead w)
  | unconfirmed (w : Word) (stage : s.pse.pass = some .unconfirmedRead) :
    s.ClientWork a (.client .pse) ((s.readDone a w).unconfirmedRead w)
  | hold (w : Word) (c : Configuration) (stage : s.pse.pass = some .holdRead) (config : s.eng.config = some c) :
    s.ClientWork a (.client .pse) ((s.readDone a w).holdRead c w)
  | filling (c : Configuration) (k : Fin 4) (stage : s.pse.pass = some (.fillingHeader k))
    (config : s.eng.config = some c) : s.ClientWork a (.client .pse) ((s.writeDone a).fillingWritten c k)
  | input (w : Word) (c : Configuration) (i : Fin 256) (stage : s.pse.pass = some (.inputRead i))
    (config : s.eng.config = some c) : s.ClientWork a (.client .pse) ((s.readDone a w).inputRead c i w)
  | entryValue (c : Configuration) (i : Fin 256) (v qz : Word) (stage : s.pse.pass = some (.entryValue i v qz))
    (config : s.eng.config = some c) : s.ClientWork a (.client .pse) ((s.writeDone a).entryValueWritten c i v qz)
  | entryQuality (c : Configuration) (i : Fin 256) (v qz : Word) (stage : s.pse.pass = some (.entryQuality i v qz))
    (config : s.eng.config = some c) : s.ClientWork a (.client .pse) ((s.writeDone a).entryWritten c i v qz)
  | endStamp (w : Word) (c : Configuration) (stage : s.pse.pass = some .endStamp) (config : s.eng.config = some c) :
    s.ClientWork a (.client .pse) ((s.readDone a w).endStampRead c w)
  | complete (c : Configuration) (k : Fin 4) (stage : s.pse.pass = some (.completeHeader k))
    (config : s.eng.config = some c) : s.ClientWork a (.client .pse) ((s.writeDone a).completeWritten c k)
  | publication (stage : s.pse.pass = some .publicationWrite) :
    s.ClientWork a (.client .pse) (s.writeDone a).publish
  | configureStored (h : Held) (c : Configuration) (had : Bool) (old : Word) (held : s.rqh.held = some h)
    (stage : h.stage = .configureWrite c had old) :
    s.ClientWork a (.client .pse) ((s.writeDone a).configureStored h c had old)
  | slotRead (w : Word) (k : Fin 16) (heads : Vector Word 16) (scan : s.rqh.scan = some (.reading k heads)) :
    s.ClientWork a (.client .rqh) ((s.readDone a w).slotRead k heads w)
  | stale (heads : Vector Word 16) (slot : Fin 16) (k : Fin 8) (scan : s.rqh.scan = some (.staleWrite heads slot k)) :
    s.ClientWork a (.client .rqh) ((s.writeDone a).staleWritten heads slot k)
  | parameter (w : Word) (slot : Fin 16) (head : Word) (k : Fin 8) (params : Vector Word 8)
    (scan : s.rqh.scan = some (.paramRead slot head k params)) :
    s.ClientWork a (.client .rqh) ((s.readDone a w).parameterRead slot head k params w)
  | taken (slot : Fin 16) (head : Word) (params : Vector Word 8)
    (scan : s.rqh.scan = some (.takenWrite slot head params)) :
    s.ClientWork a (.client .rqh) ((s.writeDone a).requestTaken slot head params)
  | ticket (h : Held) (scan : s.rqh.scan = some .ticketWrite) (held : s.rqh.held = some h) :
    s.ClientWork a (.client .rqh) ((s.writeDone a).takeComplete h)
  | image (w : Word) (h : Held) (b : Building) (held : s.rqh.held = some h) (stage : h.stage = .imageRead)
    (building : s.clb.building = some b) : s.ClientWork a (.client .rqh) ((s.readDone a w).imageWordRead h b w)
  | finishing (h : Held) (code : ResultCode) (results : Vector Word 6) (k : Fin 8) (held : s.rqh.held = some h)
    (stage : h.stage = .finishing code results k) :
    s.ClientWork a (.client .rqh) ((s.writeDone a).finishingWritten h code results k)
  | abandon (h : Held) (word0 : Bool) (held : s.rqh.held = some h) (stage : h.stage = .abandonWrite word0) :
    s.ClientWork a (.client .rqh) ((s.writeDone a).abandonWritten h word0)
  | ackWord (w : Word) (c : Configuration) (lostFirst : Bool) (e : Event) (work : s.evr.work = .readingAck lostFirst e)
    (config : s.eng.config = some c) : s.ClientWork a (.client .evr) ((s.readDone a w).ackWordRead c lostFirst e w)
  | recordWord (c : Configuration) (seq : Word) (e : Event) (k : Fin 5) (behind : Option Event)
    (work : s.evr.work = .writing seq e k behind) (config : s.eng.config = some c) (before : k.val < 3) :
    s.ClientWork a (.client .evr) ((s.writeDone a).recordStep c seq e ⟨k.val + 1, by omega⟩ behind)
  | recordNumber (c : Configuration) (seq : Word) (e : Event) (behind : Option Event)
    (work : s.evr.work = .writing seq e 3 behind) (config : s.eng.config = some c) :
    s.ClientWork a (.client .evr)
      (({ s.writeDone a with evr := s.evr.recordWritten seq e } : State).recordStep c seq e 4 behind)
  | highWater (c : Configuration) (seq : Word) (e : Event) (behind : Option Event)
    (work : s.evr.work = .writing seq e 4 behind) (config : s.eng.config = some c) :
    s.ClientWork a (.client .evr) ((s.writeDone a).recordFinished c behind)

/-! ### The commands -/

/-- ENG with other causes, mask and last refusal, which no law speaks of. -/
def Eng.withFlags (e : Eng) (cause mask : BitVec 5) (refusal : BitVec 8) : Eng :=
  { e with cause := cause, mask := mask, lastRefusal := refusal }

/-- `s.Takes t`: a command can take the state `s` to `t`. -/
inductive State.Takes (s : State) : State → Prop
  | nothing : s.Takes s
  | powerOn : s.Takes s.powerOn
  | engineReset : s.Takes s.engineReset
  | detach (engine : s.eng.engine = .idle) : s.Takes s.detach
  | attach (engine : s.eng.engine = .detached) :
    s.Takes (({ s with
      eng := { s.eng with engine := .attaching, attachReason := .none, attachWords := [] } } : State).issueAttachRead
        0).settle
  | run (c : Configuration) (engine : s.eng.engine = .idle) (config : s.eng.config = some c)
    (number : s.pse.passNumber ≠ Word.max) :
    s.Takes { s with eng := { s.eng with engine := .running }, pse := { s.pse with timer := c.startedTimer } }
  | stop (engine : s.eng.engine = .running) :
    s.Takes { s with
      eng := { s.eng with engine := if s.pse.pass.isNone then .idle else .stopping }
      pse := { s.pse with timer := none, pendingTrigger := false } }
  | clear (engine : s.eng.engine = .faulted) (entry : s.eng.faultEntry = false) :
    s.Takes { s with eng := { s.eng with engine := .idle, secondFault := false } }
  | wbase (w : Word) (engine : s.eng.engine = .detached) :
    s.Takes { s with eng := { s.eng with wbase := w &&& 0xFFFFFFFC } }
  | flags (cause mask : BitVec 5) (refusal : BitVec 8) :
    s.Takes { s with eng := s.eng.withFlags cause mask refusal }
  | attend (engine : s.eng.engine = .idle ∨ s.eng.engine = .running ∨ s.eng.engine = .stopping) :
    s.Takes s.scanOccasion.settle
  | trigger (source : s.pse.timer ≠ none ∨ (s.eng.engine = .running ∧ s.eng.config ≠ none)) : s.Takes s.trigger.settle
  | heldAgain (h : Held) (e : Edit) (held : s.rqh.held = some h) (stage : h.stage = .awaitApply e true)
    (pass : s.pse.pass ≠ none) :
    s.Takes { s with rqh := { s.rqh with held := some { h with stage := .awaitApply e false } } }
  | applied (h : Held) (e : Edit) (held : s.rqh.held = some h) (stage : h.stage = .awaitApply e true)
    (pass : s.pse.pass = none) : s.Takes (s.applyNow h e).settleTogether
  | answered (a : Access) (o : Owner) (u : State) (awaited : s.awaited o = some a) (work : s.ClientWork a o u) :
    s.Takes u.settle
  | failed (a : Access) (kind : FaultKind) (inFlight : s.bip.inFlight = some a) (mark : s.bip.disregard = false) :
    s.Takes ((s.failDone a).accessFailed kind a).settle
  | disregarded (a : Access) (u : State) (inFlight : s.bip.inFlight = some a) (mark : s.bip.disregard = true)
    (ended : u = s.writeDone a ∨ u = s.failDone a) : s.Takes u.settle

theorem State.takes_onRead {s : State} {o : Owner} {k : State → Word → State} (answer : ReadAnswer)
    (work : ∀ a w, s.ClientWork a o (k (s.readDone a w) w)) : s.Takes (s.onRead o answer k) := by
  cases ha : s.awaited o with
  | none =>
    rw [State.onRead_none ha]
    exact .nothing
  | some a =>
    cases answer with
    | word w =>
      rw [State.onRead_word ha]
      exact .answered a o _ ha (work a w)
    | error =>
      obtain ⟨hin, hmark, -⟩ := State.awaited_eq_some.mp ha
      rw [State.onRead_error ha]
      exact .failed a .busError hin hmark

theorem State.takes_onWrite {s : State} {o : Owner} {k : State → State} (answer : WriteAnswer)
    (work : ∀ a, s.ClientWork a o (k (s.writeDone a))) : s.Takes (s.onWrite o answer k) := by
  cases ha : s.awaited o with
  | none =>
    rw [State.onWrite_none ha]
    exact .nothing
  | some a =>
    cases answer with
    | done =>
      unfold State.onWrite
      rw [ha]
      dsimp only
      rw [State.completedAccess_endInFlight]
      exact .answered a o _ ha (work a)
    | error =>
      obtain ⟨hin, hmark, -⟩ := State.awaited_eq_some.mp ha
      rw [State.onWrite_error ha]
      exact .failed a .busError hin hmark

theorem State.takes_timeout (s : State) : s.Takes s.timeout := by
  unfold State.timeout
  split
  · exact .nothing
  · rename_i a hin
    split <;> rename_i hmark
    · exact .disregarded a _ hin hmark (.inr rfl)
    · exact .failed a .timeout hin (Bool.eq_false_of_not_eq_true hmark)

theorem State.takes_disregardedEnd (s : State) (how : DisregardedEnd) : s.Takes (s.disregardedEnd how) := by
  unfold State.disregardedEnd
  split
  · exact .nothing
  · rename_i a hin
    split <;> rename_i hmark
    · cases how with
      | answered =>
        dsimp only
        rw [State.completedAccess_endInFlight]
        exact .disregarded a _ hin hmark (.inl rfl)
      | error => exact .disregarded a _ hin hmark (.inr rfl)
      | timeout => exact .disregarded a _ hin hmark (.inr rfl)
    · exact .nothing

theorem State.takes_refuseCommand (s : State) (code : BitVec 8) : s.Takes (s.refuseCommand code) :=
  .flags (s.eng.cause ||| Cause.commandRefused.bit) s.eng.mask code

/-! ### The commands written to CMD -/

section
variable (s : State)

theorem State.takes_attach : s.Takes s.takeAttach := by
  unfold State.takeAttach
  split
  next h => exact .attach h
  all_goals exact s.takes_refuseCommand 1

theorem State.takes_detach : s.Takes s.takeDetach := by
  unfold State.takeDetach
  split
  next h => exact .detach h
  all_goals exact s.takes_refuseCommand 2

theorem State.takes_run : s.Takes s.takeRun := by
  unfold State.takeRun
  split
  next c hengine hconfig =>
    split
    · exact s.takes_refuseCommand 3
    next hnumber => exact .run c hengine hconfig hnumber
  all_goals exact s.takes_refuseCommand 3

theorem State.takes_stop : s.Takes s.takeStop := by
  unfold State.takeStop
  split
  next h => exact .stop h
  all_goals exact s.takes_refuseCommand 4

theorem State.takes_attend : s.Takes s.takeAttend := by
  unfold State.takeAttend
  split
  next h => exact .attend (.inl h)
  next h => exact .attend (.inr (.inl h))
  next h => exact .attend (.inr (.inr h))
  all_goals exact s.takes_refuseCommand 5

theorem State.takes_pass : s.Takes s.takePass := by
  unfold State.takePass
  split
  next c hengine hconfig =>
    split
    · exact .trigger (.inr ⟨hengine, by simp [hconfig]⟩)
    · exact s.takes_refuseCommand 6
  all_goals exact s.takes_refuseCommand 6

theorem State.takes_clear : s.Takes s.takeClear := by
  unfold State.takeClear
  split
  next hengine =>
    split
    · exact s.takes_refuseCommand 7
    next hentry => exact .clear hengine (Bool.eq_false_of_not_eq_true hentry)
  all_goals exact s.takes_refuseCommand 7

theorem State.takes_commandWord (w : Word) : s.Takes (s.takeCommandWord w) := by
  unfold State.takeCommandWord
  split
  · exact s.takes_attach
  · exact s.takes_detach
  · exact s.takes_run
  · exact s.takes_stop
  · exact s.takes_attend
  · exact s.takes_pass
  · exact s.takes_clear
  · exact .engineReset
  · exact s.takes_refuseCommand 255

end

/-! ### The answers and the other events -/

theorem State.takes_passAnswer {s t : State} (answer : ReadAnswer)
    (h : execStartStampReadAnswer answer s = .next t ∨ execUnconfirmedBankReadAnswer answer s = .next t
      ∨ execHoldWordReadAnswer answer s = .next t ∨ execInputReadAnswer answer s = .next t
      ∨ execEndStampReadAnswer answer s = .next t) : s.Takes t := by
  rcases h with h | h | h | h | h <;> obtain rfl := Host.Outcome.next.inj h <;> split
  next stage => exact State.takes_onRead _ fun _ w => .startStamp w stage
  · exact .nothing
  next stage => exact State.takes_onRead _ fun _ w => .unconfirmed w stage
  · exact .nothing
  next c stage config => exact State.takes_onRead _ fun _ w => .hold w c stage config
  · exact .nothing
  next i c stage config => exact State.takes_onRead _ fun _ w => .input w c i stage config
  · exact .nothing
  next c stage config => exact State.takes_onRead _ fun _ w => .endStamp w c stage config
  · exact .nothing

theorem State.takes_passWriteAnswer {s t : State} (answer : WriteAnswer)
    (h : execFillingHeaderWriteAnswer answer s = .next t ∨ execEntryWriteAnswer answer s = .next t
      ∨ execCompleteHeaderWriteAnswer answer s = .next t ∨ execPublicationWordWriteAnswer answer s = .next t
      ∨ execConfigurePublicationWriteAnswer answer s = .next t) : s.Takes t := by
  rcases h with h | h | h | h | h <;> obtain rfl := Host.Outcome.next.inj h <;> split
  next k c stage config => exact State.takes_onWrite _ fun _ => .filling c k stage config
  · exact .nothing
  next i v qz c stage config => exact State.takes_onWrite _ fun _ => .entryValue c i v qz stage config
  next i v qz c stage config => exact State.takes_onWrite _ fun _ => .entryQuality c i v qz stage config
  · exact .nothing
  next k c stage config => exact State.takes_onWrite _ fun _ => .complete c k stage config
  · exact .nothing
  next stage => exact State.takes_onWrite _ fun _ => .publication stage
  · exact .nothing
  next held => exact State.takes_onWrite _ fun _ => .configureStored _ _ _ _ held rfl
  · exact .nothing

theorem State.takes_requestReadAnswer {s t : State} (answer : ReadAnswer)
    (h : execScanReadAnswer answer s = .next t ∨ execParameterReadAnswer answer s = .next t
      ∨ execImageReadAnswer answer s = .next t) : s.Takes t := by
  rcases h with h | h | h <;> obtain rfl := Host.Outcome.next.inj h <;> split
  next k heads scan => exact State.takes_onRead _ fun _ w => .slotRead w k heads scan
  · exact .nothing
  next slot head k params scan => exact State.takes_onRead _ fun _ w => .parameter w slot head k params scan
  · exact .nothing
  next b held building => exact State.takes_onRead _ fun _ w => .image w _ b held rfl building
  · exact .nothing

theorem State.takes_requestWriteAnswer {s t : State} (answer : WriteAnswer)
    (h : execStaleRefusalWriteAnswer answer s = .next t ∨ execTakenWriteAnswer answer s = .next t
      ∨ execLastTakenTicketWriteAnswer answer s = .next t ∨ execFinishingWriteAnswer answer s = .next t
      ∨ execAbandonWriteAnswer answer s = .next t) : s.Takes t := by
  rcases h with h | h | h | h | h <;> obtain rfl := Host.Outcome.next.inj h <;> split
  next heads slot k scan => exact State.takes_onWrite _ fun _ => .stale heads slot k scan
  · exact .nothing
  next slot head params scan => exact State.takes_onWrite _ fun _ => .taken slot head params scan
  · exact .nothing
  next h scan held => exact State.takes_onWrite _ fun _ => .ticket h scan held
  · exact .nothing
  next held => exact State.takes_onWrite _ fun _ => .finishing _ _ _ _ held rfl
  · exact .nothing
  next held => exact State.takes_onWrite _ fun _ => .abandon _ _ held rfl
  · exact .nothing

theorem State.takes_recorderAnswer {s t : State}
    (h : (∃ answer, execAckWordReadAnswer answer s = .next t) ∨ (∃ answer, execRecordWordWriteAnswer answer s = .next t)
      ∨ ∃ answer, execHighWaterWriteAnswer answer s = .next t) : s.Takes t := by
  rcases h with ⟨answer, h⟩ | ⟨answer, h⟩ | ⟨answer, h⟩ <;> obtain rfl := Host.Outcome.next.inj h <;> split
  next lostFirst e c work config => exact State.takes_onRead _ fun _ w => .ackWord w c lostFirst e work config
  · exact .nothing
  next seq e behind c work config => exact State.takes_onWrite _ fun _ => .recordWord c seq e 0 behind work config (by decide)
  next seq e behind c work config => exact State.takes_onWrite _ fun _ => .recordWord c seq e 1 behind work config (by decide)
  next seq e behind c work config => exact State.takes_onWrite _ fun _ => .recordWord c seq e 2 behind work config (by decide)
  next seq e behind c work config => exact State.takes_onWrite _ fun _ => .recordNumber c seq e behind work config
  · exact .nothing
  next seq e behind c work config => exact State.takes_onWrite _ fun _ => .highWater c seq e behind work config
  · exact .nothing

theorem State.takes_passTimerExpiry {s t : State} (h : execPassTimerExpiry s = .next t) : s.Takes t := by
  obtain rfl := Host.Outcome.next.inj h
  split
  next htimer => exact .trigger (.inl (by simp [htimer]))
  · exact .nothing

theorem State.takes_releasedApplyStep {s t : State} (h : execReleasedApplyStep s = .next t) : s.Takes t := by
  obtain rfl := Host.Outcome.next.inj h
  split
  next held =>
    dsimp only
    split
    next hpass => exact .heldAgain _ _ held rfl (Option.isSome_iff_ne_none.1 hpass)
    next hpass => exact .applied _ _ held rfl (by simpa using hpass)
  · exact .nothing

theorem State.takes_wbaseWrite {s t : State} (w : Word) (h : execWbaseWrite w s = .next t) : s.Takes t := by
  obtain rfl := Host.Outcome.next.inj h
  split
  next hengine => exact .wbase w hengine
  all_goals exact s.takes_refuseCommand 16

/-- Every command's effect is one of the list. -/
theorem exec_takes {c : Instr} {s t : State} (h : exec c s = .next t) : s.Takes t := by
  cases c with
  | powerOn => obtain rfl := Host.Outcome.next.inj h; exact .powerOn
  | attach _ => obtain rfl := Host.Outcome.next.inj h; exact s.takes_attach
  | detach _ => obtain rfl := Host.Outcome.next.inj h; exact s.takes_detach
  | run _ => obtain rfl := Host.Outcome.next.inj h; exact s.takes_run
  | stop _ => obtain rfl := Host.Outcome.next.inj h; exact s.takes_stop
  | attend _ => obtain rfl := Host.Outcome.next.inj h; exact s.takes_attend
  | pass _ => obtain rfl := Host.Outcome.next.inj h; exact s.takes_pass
  | clear _ => obtain rfl := Host.Outcome.next.inj h; exact s.takes_clear
  | engineReset _ => obtain rfl := Host.Outcome.next.inj h; exact .engineReset
  | unknownCommandCode w => obtain rfl := Host.Outcome.next.inj h; exact s.takes_commandWord w
  | wbaseWrite w => exact State.takes_wbaseWrite w h
  | causeWrite w => obtain rfl := Host.Outcome.next.inj h; exact .flags _ s.eng.mask s.eng.lastRefusal
  | maskWrite w => obtain rfl := Host.Outcome.next.inj h; exact .flags s.eng.cause _ s.eng.lastRefusal
  | registerWriteDisregarded _ _ => obtain rfl := Host.Outcome.next.inj h; exact .nothing
  | passTimerExpiry => exact State.takes_passTimerExpiry h
  | busTimeout => obtain rfl := Host.Outcome.next.inj h; exact s.takes_timeout
  | disregardedAccessEnd how => obtain rfl := Host.Outcome.next.inj h; exact s.takes_disregardedEnd how
  | attachReadAnswer answer =>
    obtain rfl := Host.Outcome.next.inj h
    exact State.takes_onRead answer fun _ w => .attachWord w
  | startStampReadAnswer answer => exact State.takes_passAnswer answer (.inl h)
  | unconfirmedBankReadAnswer answer => exact State.takes_passAnswer answer (.inr (.inl h))
  | holdWordReadAnswer answer => exact State.takes_passAnswer answer (.inr (.inr (.inl h)))
  | inputReadAnswer answer => exact State.takes_passAnswer answer (.inr (.inr (.inr (.inl h))))
  | endStampReadAnswer answer => exact State.takes_passAnswer answer (.inr (.inr (.inr (.inr h))))
  | fillingHeaderWriteAnswer answer => exact State.takes_passWriteAnswer answer (.inl h)
  | entryWriteAnswer answer => exact State.takes_passWriteAnswer answer (.inr (.inl h))
  | completeHeaderWriteAnswer answer => exact State.takes_passWriteAnswer answer (.inr (.inr (.inl h)))
  | publicationWordWriteAnswer answer => exact State.takes_passWriteAnswer answer (.inr (.inr (.inr (.inl h))))
  | configurePublicationWriteAnswer answer => exact State.takes_passWriteAnswer answer (.inr (.inr (.inr (.inr h))))
  | releasedApplyStep => exact State.takes_releasedApplyStep h
  | scanReadAnswer answer => exact State.takes_requestReadAnswer answer (.inl h)
  | parameterReadAnswer answer => exact State.takes_requestReadAnswer answer (.inr (.inl h))
  | imageReadAnswer answer => exact State.takes_requestReadAnswer answer (.inr (.inr h))
  | staleRefusalWriteAnswer answer => exact State.takes_requestWriteAnswer answer (.inl h)
  | takenWriteAnswer answer => exact State.takes_requestWriteAnswer answer (.inr (.inl h))
  | lastTakenTicketWriteAnswer answer => exact State.takes_requestWriteAnswer answer (.inr (.inr (.inl h)))
  | finishingWriteAnswer answer => exact State.takes_requestWriteAnswer answer (.inr (.inr (.inr (.inl h))))
  | abandonWriteAnswer answer => exact State.takes_requestWriteAnswer answer (.inr (.inr (.inr (.inr h))))
  | ackWordReadAnswer answer => exact State.takes_recorderAnswer (.inl ⟨answer, h⟩)
  | recordWordWriteAnswer answer => exact State.takes_recorderAnswer (.inr (.inl ⟨answer, h⟩))
  | highWaterWriteAnswer answer => exact State.takes_recorderAnswer (.inr (.inr ⟨answer, h⟩))

/-- A step changes nothing, or takes the command at the front on the queue's rest. -/
theorem step_takes {s t : State} (h : step s = .next t) : t = s ∨ ∃ rest, ({ s with pending := rest } : State).Takes t := by
  unfold step at h
  split at h
  · exact .inl (Host.Outcome.next.inj h).symm
  next c rest _ => exact .inr ⟨rest, exec_takes h⟩

/-- A property that the queue does not enter, and that every way a command changes the state keeps, is kept by every step. -/
theorem step_keeps {P Q : State → Prop} {s t : State} (h : step s = .next t) (hs : P s) (weak : P s → Q s)
    (queue : ∀ rest, P s → P { s with pending := rest }) (takes : ∀ s t, P s → s.Takes t → Q t) : Q t := by
  rcases step_takes h with rfl | ⟨rest, ht⟩
  · exact weak hs
  · exact takes _ _ (queue rest hs) ht

end Sys2Proof.Machine

/-! What a step can do to the tables (curve slots, points, zones) and to the edit that waits for them, as a chain of thirteen
elementary changes. The laws of chapters 2, 3 and 4 are kept because each change keeps them. -/
namespace Sys2Proof.Machine

/-! ### What a held request carries -/

/-- The configuration of a CONFIGURE whose publication word is being written (R161). -/
def Rqh.configuring (r : Rqh) : Option Configuration :=
  match r.held with
  | some ⟨_, _, _, _, .configureWrite c _ _⟩ => some c
  | _ => none

/-- A scan finds no request past its take (R145). -/
def State.takeLaw (s : State) : Prop :=
  ∀ (sc : ScanStage) (h : Held), s.rqh.scan = some sc → s.rqh.held = some h → h.stage = .taken

section
variable {r r' : Rqh} {h : Held}

theorem Rqh.waitingEdit_congr (hheld : r'.held = r.held) : r'.waitingEdit = r.waitingEdit := by
  unfold Rqh.waitingEdit; rw [hheld]

theorem Rqh.configuring_congr (hheld : r'.held = r.held) : r'.configuring = r.configuring := by
  unfold Rqh.configuring; rw [hheld]

theorem Rqh.waitingEdit_of_stage {e : Edit} {released : Bool} (hheld : r.held = some h)
    (hstage : h.stage = .awaitApply e released) : r.waitingEdit = some e := by
  obtain ⟨slot, kind, ticket, params, stage⟩ := h
  subst hstage
  unfold Rqh.waitingEdit; rw [hheld]

theorem Rqh.configuring_of_stage {c : Configuration} {had : Bool} {old : Word} (hheld : r.held = some h)
    (hstage : h.stage = .configureWrite c had old) : r.configuring = some c := by
  obtain ⟨slot, kind, ticket, params, stage⟩ := h
  subst hstage
  unfold Rqh.configuring; rw [hheld]

theorem Rqh.waitingEdit_eq_none (hstage : ∀ h e released, r.held = some h → h.stage ≠ .awaitApply e released) :
    r.waitingEdit = none := by
  unfold Rqh.waitingEdit
  split
  next hheld => exact absurd rfl (hstage _ _ _ hheld)
  · rfl

theorem Rqh.configuring_eq_none (hstage : ∀ h c had old, r.held = some h → h.stage ≠ .configureWrite c had old) :
    r.configuring = none := by
  unfold Rqh.configuring
  split
  next hheld => exact absurd rfl (hstage _ _ _ _ hheld)
  · rfl

theorem Rqh.configuring_of_waiting {e : Edit} {released : Bool} (hheld : r.held = some h)
    (hstage : h.stage = .awaitApply e released) : r.configuring = none := by
  obtain ⟨slot, kind, ticket, params, stage⟩ := h
  subst hstage
  unfold Rqh.configuring; rw [hheld]

end

/-- A stage that carries neither an edit nor a configuration. -/
def HeldStage.plain : HeldStage → Bool
  | .awaitApply .. | .configureWrite .. => false
  | .taken | .imageRead | .finishing .. | .abandonWrite _ => true

theorem Rqh.carries_none {r : Rqh} (hplain : ∀ h, r.held = some h → h.stage.plain = true) :
    r.waitingEdit = none ∧ r.configuring = none := by
  refine ⟨Rqh.waitingEdit_eq_none fun h e released hheld hstage => ?_,
    Rqh.configuring_eq_none fun h c had old hheld hstage => ?_⟩
  all_goals
    have := hplain h hheld
    rw [hstage] at this
    cases this

/-! ### The elementary changes -/

/-- What must have been checked of an edit that comes to wait (R64, R65, R74); an installation comes by its reservation alone. -/
def State.checkedEdit (s : State) : Edit → Prop
  | .install _ => False
  | .setZones _ v => 1 ≤ v.dwell
  | .setPoint i d => (s.inputLimit ≤ 1024 → d.legal i)
      ∧ (∀ z, d.zoneSet = some z → s.zsv.sets[z].written = true)
      ∧ ∀ c body, d.direction = .inverse → d.curve = some c → s.clb.slots[c].body = some body → body.invertible = true
  | .delete _ | .clearPoint _ | .ackZone _ => True

/-- The tables, and what waits to change them, stand; a scan that has begun does not meet a request past its take. -/
structure State.SameTables (s t : State) : Prop where
  clb : t.clb = s.clb
  ptb : t.ptb = s.ptb
  zsv : t.zsv = s.zsv
  waitingEdit : t.rqh.waitingEdit = s.rqh.waitingEdit
  configuring : t.rqh.configuring = s.rqh.configuring
  config : t.eng.config = s.eng.config
  take : s.takeLaw → t.takeLaw

/-- One elementary change from `s` to `t`. `ok` is the law that a scan finds no request past its take, at the beginning of the
step: only the law of invertible bodies needs the premises that rest on it. -/
inductive State.TableChange (ok : Prop) (s t : State) : Prop
  | same (frame : s.SameTables t)
  | reset (frame : State.reset.SameTables t)
  | restart (clb : t.clb = s.clb.discard) (ptb : t.ptb = s.ptb.restartAll) (zsv : t.zsv = s.zsv.restartAll s.ptb)
    (held : t.rqh.held = none) (config : t.eng.config = none)
  | stage (tables : t.clb = s.clb ∧ t.ptb = s.ptb ∧ t.zsv = s.zsv) (config : t.eng.config = s.eng.config)
    (plain : t.rqh.waitingEdit = none ∧ t.rqh.configuring = none)
    (free : ok → s.rqh.waitingEdit = none ∨ s.clb.building = none) (take : ok → t.takeLaw)
  | configure (tables : t.clb = s.clb ∧ t.ptb = s.ptb ∧ t.zsv = s.zsv) (config : t.eng.config = none)
    (waitingEdit : t.rqh.waitingEdit = none) (count : ∀ c, t.rqh.configuring = some c → c.inputCount ≤ 1024)
    (free : ok → s.rqh.waitingEdit = none) (take : ok → t.takeLaw)
  | stored (c : Configuration) (tables : t.clb = s.clb ∧ t.ptb = s.ptb ∧ t.zsv = s.zsv)
    (config : t.eng.config = some c) (plain : t.rqh.waitingEdit = none ∧ t.rqh.configuring = none)
    (configuring : s.rqh.configuring = some c) (free : s.rqh.waitingEdit = none) (take : ok → t.takeLaw)
  | hold (e : Edit) (tables : t.clb = s.clb ∧ t.ptb = s.ptb ∧ t.zsv = s.zsv) (config : t.eng.config = s.eng.config)
    (waitingEdit : t.rqh.waitingEdit = some e) (configuring : t.rqh.configuring = none) (checked : s.checkedEdit e)
    (free : ok → s.rqh.waitingEdit = none) (take : ok → t.takeLaw)
  | discard (clb : t.clb = s.clb.discard) (ptb : t.ptb = s.ptb) (zsv : t.zsv = s.zsv) (rqh : t.rqh = s.rqh)
    (config : t.eng.config = s.eng.config)
  | opened (c : Fin 64) (offset length : Nat) (clb : t.clb = s.clb.openBuilding c offset length) (ptb : t.ptb = s.ptb)
    (zsv : t.zsv = s.zsv) (config : t.eng.config = s.eng.config)
    (plain : t.rqh.waitingEdit = none ∧ t.rqh.configuring = none) (take : ok → t.takeLaw)
  | buffered (b : Building) (w : Word) (building : s.clb.building = some b) (clb : t.clb = s.clb.bufferWord b w)
    (ptb : t.ptb = s.ptb) (zsv : t.zsv = s.zsv) (rqh : t.rqh = s.rqh) (config : t.eng.config = s.eng.config)
  | reserved (b : Building) (shape : CurveShape) (building : s.clb.building = some b)
    (checked : s.clb.checkImage b = .ok shape) (clb : t.clb = s.clb.reserve b shape) (ptb : t.ptb = s.ptb)
    (zsv : t.zsv = s.zsv) (waitingEdit : t.rqh.waitingEdit = some (.install b.target))
    (configuring : t.rqh.configuring = none) (config : t.eng.config = s.eng.config) (take : ok → t.takeLaw)
  | applied (e : Edit) (waiting : s.rqh.waitingEdit = some e)
    (tables : t.clb = (s.applyEdit e).state.clb ∧ t.ptb = (s.applyEdit e).state.ptb ∧ t.zsv = (s.applyEdit e).state.zsv)
    (config : t.eng.config = s.eng.config) (plain : t.rqh.waitingEdit = none ∧ t.rqh.configuring = none)
    (take : ok → t.takeLaw)
  | converted (i : Fin 256) (d : PointDef) (src : SourceResult) (definition : s.ptb.points[i].definition = some d)
    (clb : t.clb = s.clb)
    (ptb : t.ptb = ⟨s.ptb.points.set i (s.ptb.points[i].update d.window (curveStep s.clb d src)).point⟩)
    (zsv : ∃ v q, t.zsv = { s.zsv with
      zones := s.zsv.zones.set i (s.zsv.evaluate d.zoneSet s.zsv.zones[i] v q).zone })
    (rqh : t.rqh = s.rqh) (config : t.eng.config = s.eng.config)

/-- What a step does to the tables: elementary changes, one after another. -/
def State.TableChanges (ok : Prop) (s t : State) : Prop := Relation.ReflTransGen (State.TableChange ok) s t

theorem State.takeLaw_of_scan {s : State} (h : s.rqh.scan = none) : s.takeLaw := by
  intro sc _ hsc
  rw [h] at hsc
  cases hsc

theorem State.takeLaw_of_held {s : State} (h : s.rqh.held = none) : s.takeLaw := by
  intro _ x _ hx
  rw [h] at hx
  cases hx

theorem State.takeLaw_congr {s t : State} (hscan : t.rqh.scan = s.rqh.scan) (hheld : t.rqh.held = s.rqh.held)
    (h : s.takeLaw) : t.takeLaw := by
  intro sc x hsc hx
  exact h sc x (hscan ▸ hsc) (hheld ▸ hx)

theorem State.takeLaw_reset : State.reset.takeLaw := State.takeLaw_of_scan rfl

/-- Every elementary change keeps the law of the take. -/
theorem State.TableChange.takeLaw {ok : Prop} {s t : State} (h : s.TableChange ok t) (hok : ok) (hs : s.takeLaw) :
    t.takeLaw := by
  cases h with
  | same frame => exact frame.take hs
  | reset frame => exact frame.take State.takeLaw_reset
  | restart clb ptb zsv held config => exact State.takeLaw_of_held held
  | discard clb ptb zsv rqh config => exact State.takeLaw_congr (by rw [rqh]) (by rw [rqh]) hs
  | buffered b w building clb ptb zsv rqh config => exact State.takeLaw_congr (by rw [rqh]) (by rw [rqh]) hs
  | converted i d src definition clb ptb zsv rqh config => exact State.takeLaw_congr (by rw [rqh]) (by rw [rqh]) hs
  | stage _ _ _ _ take => exact take hok
  | configure _ _ _ _ _ take => exact take hok
  | stored _ _ _ _ _ _ take => exact take hok
  | hold _ _ _ _ _ _ _ take => exact take hok
  | opened _ _ _ _ _ _ _ _ take => exact take hok
  | reserved _ _ _ _ _ _ _ _ _ _ take => exact take hok
  | applied _ _ _ _ _ take => exact take hok

namespace State.TableChanges
variable {ok : Prop} {s t u : State}

theorem takeLaw (h : s.TableChanges ok t) (hok : ok) (hs : s.takeLaw) : t.takeLaw := by
  induction h with
  | refl => exact hs
  | tail _ hlast ih => exact hlast.takeLaw hok ih

theorem refl (s : State) : s.TableChanges ok s := Relation.ReflTransGen.refl

theorem trans (h : s.TableChanges ok t) (h' : t.TableChanges ok u) : s.TableChanges ok u := Relation.ReflTransGen.trans h h'

theorem single (h : s.TableChange ok t) : s.TableChanges ok t := Relation.ReflTransGen.single h

theorem same (h : s.SameTables t) : s.TableChanges ok t := single (.same h)

end State.TableChanges

namespace State.SameTables
variable {s t : State}

/-- Where the held request stands and no scan begins beside one. -/
theorem of_held (hclb : t.clb = s.clb) (hptb : t.ptb = s.ptb) (hzsv : t.zsv = s.zsv) (hconfig : t.eng.config = s.eng.config)
    (hheld : t.rqh.held = s.rqh.held)
    (hscan : t.rqh.scan = s.rqh.scan ∨ t.rqh.scan = none ∨ s.rqh.scan ≠ none ∨ s.rqh.held = none) : s.SameTables t := by
  refine ⟨hclb, hptb, hzsv, Rqh.waitingEdit_congr hheld, Rqh.configuring_congr hheld, hconfig, fun hlaw => ?_⟩
  rcases hscan with hscan | hscan | hscan | hnone
  · exact State.takeLaw_congr hscan hheld hlaw
  · exact State.takeLaw_of_scan hscan
  · obtain ⟨sc, hsc⟩ := Option.ne_none_iff_exists'.mp hscan
    exact fun _ x _ hx => hlaw sc x hsc (hheld ▸ hx)
  · exact State.takeLaw_of_held (hheld.trans hnone)

/-- Where RQH stands whole. -/
theorem of_rqh (hclb : t.clb = s.clb) (hptb : t.ptb = s.ptb) (hzsv : t.zsv = s.zsv) (hrqh : t.rqh = s.rqh)
    (hconfig : t.eng.config = s.eng.config) : s.SameTables t :=
  of_held hclb hptb hzsv hconfig (by rw [hrqh]) (.inl (by rw [hrqh]))

end State.SameTables

/-! ### The recorder and the pass engine -/

section
variable {ok : Prop} (s : State)

theorem State.hand_sameTables (e : Event) : s.SameTables (s.hand e) :=
  .of_rqh (by simp) (by simp) (by simp) (by simp) (by simp)

theorem State.handAll_sameTables (es : List Event) : s.SameTables (s.handAll es) :=
  .of_rqh (by simp) (by simp) (by simp) (by simp) (by simp)

theorem State.handTogether_sameTables (e : Option Event) (es : List Event) : s.SameTables (s.handTogether e es) :=
  .of_rqh (by simp) (by simp) (by simp) (by simp) (by simp)

theorem State.afterPass_sameTables (halt : Bool) : s.SameTables (s.afterPass halt) :=
  .of_rqh (by simp) (by simp) (by simp) (by simp) (by rw [(s.afterPass_spec halt).1]; split <;> rfl)

theorem State.completePoint_tables (c : Configuration) (i : Fin 256) {d : PointDef} (src : SourceResult)
    (hd : s.ptb.points[i].definition = some d) : s.TableChanges ok (s.completePoint c i d src) :=
  .single (.converted i d src hd (by simp) (by simp [State.completePoint])
    ⟨(s.ptb.points[i].update d.window (curveStep s.clb d src)).point.lastOutput,
      (s.ptb.points[i].update d.window (curveStep s.clb d src)).quality, by simp [State.completePoint]⟩ (by simp) (by simp))

theorem State.convertPoint_tables (c : Configuration) (i : Fin 256) : s.TableChanges ok (s.convertPoint c i) := by
  unfold State.convertPoint
  split
  · exact .same (.of_rqh (by simp) (by simp) (by simp) (by simp) (by simp))
  next d hd =>
    split
    · split
      · exact .same (.of_rqh (by simp) (by simp) (by simp) (by simp) (by simp))
      · exact s.completePoint_tables c i _ hd
    · exact s.completePoint_tables c i _ hd

theorem State.inputRead_tables (c : Configuration) (i : Fin 256) (w : Word) : s.TableChanges ok (s.inputRead c i w) := by
  unfold State.inputRead
  split
  next d hd =>
    split
    · exact s.completePoint_tables c i _ hd
    · exact s.convertPoint_tables c i
  · exact s.convertPoint_tables c i

theorem State.fillingWritten_tables (c : Configuration) (k : Fin 4) : s.TableChanges ok (s.fillingWritten c k) := by
  unfold State.fillingWritten
  split
  · exact .same (.of_rqh (by simp) (by simp) (by simp) (by simp) (by simp))
  · exact s.convertPoint_tables c 0

theorem State.entryWritten_tables (c : Configuration) (i : Fin 256) (v qz : Word) :
    s.TableChanges ok (s.entryWritten c i v qz) := by
  unfold State.entryWritten
  dsimp only
  split
  · exact .trans (t := { s with pse := s.pse.foldEntry s.ptb.points[i].definition.isSome v qz })
      (.same (.of_rqh rfl rfl rfl rfl rfl)) (State.convertPoint_tables _ c _)
  · exact .same (.of_rqh rfl rfl rfl rfl rfl)

/-! ### Scans and finishing -/

theorem State.beginScan_sameTables (h : s.rqh.scan ≠ none ∨ s.rqh.held = none) : s.SameTables s.beginScan :=
  .of_held (by simp) (by simp) (by simp) (by simp) rfl (.inr (.inr h))

theorem State.scanOccasion_sameTables : s.SameTables s.scanOccasion := by
  unfold State.scanOccasion
  split
  · exact .of_held rfl rfl rfl rfl rfl (.inl rfl)
  next hbusy =>
    have hheld : s.rqh.held = none := by
      cases h : s.rqh.held with
      | none => rfl
      | some x => simp [Rqh.busy, h] at hbusy
    exact s.beginScan_sameTables (.inr hheld)

/-- Going on with the stale refusals changes the scan alone. -/
theorem State.refuseStaleFrom_held (heads : Vector Word 16) (n : Nat) :
    (s.refuseStaleFrom heads n).rqh.held = s.rqh.held := by
  unfold State.refuseStaleFrom
  split
  · rfl
  · unfold State.takeOrEnd
    split
    · unfold State.endScan
      dsimp only
      split <;> rfl
    · rfl

theorem State.refuseStaleFrom_sameTables (heads : Vector Word 16) (n : Nat) (h : s.rqh.scan ≠ none) :
    s.SameTables (s.refuseStaleFrom heads n) :=
  .of_held (by simp) (by simp) (by simp) (by simp) (s.refuseStaleFrom_held heads n) (.inr (.inr (.inl h)))

theorem State.slotRead_sameTables (k : Fin 16) (heads : Vector Word 16) (w : Word) (h : s.rqh.scan ≠ none) :
    s.SameTables (s.slotRead k heads w) := by
  unfold State.slotRead
  dsimp only
  split
  · exact .of_held rfl rfl rfl rfl rfl (.inr (.inr (.inl h)))
  · exact s.refuseStaleFrom_sameTables _ _ h

theorem State.staleWritten_sameTables (heads : Vector Word 16) (b : Fin 16) (k : Fin 8) (h : s.rqh.scan ≠ none) :
    s.SameTables (s.staleWritten heads b k) := by
  unfold State.staleWritten
  split
  · exact .of_held rfl rfl rfl rfl rfl (.inr (.inr (.inl h)))
  · exact .of_held (by simp) (by simp) (by simp) (by simp) (State.refuseStaleFrom_held _ _ _) (.inr (.inr (.inl h)))

theorem State.parameterRead_sameTables (b : Fin 16) (head : Word) (k : Fin 8) (params : Vector Word 8) (w : Word)
    (h : s.rqh.scan ≠ none) : s.SameTables (s.parameterRead b head k params w) := by
  unfold State.parameterRead
  dsimp only
  split <;> exact .of_held rfl rfl rfl rfl rfl (.inr (.inr (.inl h)))

variable {s}

/-- A held request comes to a stage that carries no edit and no configuration. -/
theorem State.TableChange.of_plain {t : State} (tables : t.clb = s.clb ∧ t.ptb = s.ptb ∧ t.zsv = s.zsv)
    (config : t.eng.config = s.eng.config) (plain : ∀ h, t.rqh.held = some h → h.stage.plain = true)
    (free : ok → s.rqh.waitingEdit = none ∨ s.clb.building = none) (take : ok → t.takeLaw) : s.TableChange ok t :=
  .stage tables config (Rqh.carries_none plain) free take

theorem State.finishStep_tables (h : Held) (code : ResultCode) (results : Vector Word 6) (k : Fin 8)
    (free : ok → s.rqh.waitingEdit = none ∨ s.clb.building = none) (scan : ok → s.rqh.scan = none) :
    s.TableChange ok (s.finishStep h code results k) :=
  .of_plain ⟨rfl, rfl, rfl⟩ rfl (fun h' hh => by cases hh; rfl) free (fun hok => State.takeLaw_of_scan (scan hok))

theorem State.refuseLoad_tables (h : Held) (r : RefusedWith) (scan : ok → s.rqh.scan = none) :
    s.TableChanges ok (s.refuseLoad h r) :=
  .trans (t := { s with clb := s.clb.discard }) (.single (.discard rfl rfl rfl rfl rfl))
    (.single (State.finishStep_tables h r.1 _ 0 (fun _ => .inr (Clb.discard_spec _).2.1) scan))

theorem State.requestTaken_tables (b : Fin 16) (head : Word) (params : Vector Word 8)
    (free : ok → s.rqh.waitingEdit = none) : s.TableChange ok (s.requestTaken b head params) :=
  .of_plain ⟨rfl, rfl, rfl⟩ rfl (fun h' hh => by cases hh; rfl) (fun hok => .inl (free hok))
    (fun _ _ x _ hx => by cases hx; rfl)

theorem State.finishingWritten_tables (h : Held) (code : ResultCode) (results : Vector Word 6) (k : Fin 8)
    (free : ok → s.rqh.waitingEdit = none) (scan : ok → s.rqh.scan = none) :
    s.TableChanges ok (s.finishingWritten h code results k) := by
  unfold State.finishingWritten
  split
  · exact .single (State.finishStep_tables _ _ _ _ (fun hok => .inl (free hok)) scan)
  · refine .trans (.single ?_) (.same (State.scanOccasion_sameTables _))
    exact .of_plain ⟨rfl, rfl, rfl⟩ rfl (fun h' hh => by cases hh) (fun hok => .inl (free hok))
      (fun _ => State.takeLaw_of_held rfl)

/-! ### Edits -/

/-- An edit applied at once is one taken, but for the events handed. -/
theorem State.applyNow_sameTables (s : State) (h : Held) (e : Edit) : (s.takeEdit h e).1.SameTables (s.applyNow h e) :=
  State.handAll_sameTables _ _

/-- The edit that waits is applied (R152). -/
theorem State.takeEdit_tables_change {u : State} {e : Edit} (h : Held) (waiting : s.rqh.waitingEdit = some e)
    (scan : ok → s.rqh.scan = none) (hclb : u.clb = s.clb) (hptb : u.ptb = s.ptb) (hzsv : u.zsv = s.zsv)
    (hnumber : u.pse.passNumber = s.pse.passNumber) (hconfig : u.eng.config = s.eng.config)
    (hscan : u.rqh.scan = s.rqh.scan) : s.TableChange ok (u.takeEdit h e).1 := by
  obtain ⟨eclb, eptb, ezsv, -, -⟩ := State.applyEdit_congr (s := u) (t := s) e hclb hptb hzsv hnumber
  refine .applied e waiting ⟨by simp [eclb], by simp [eptb], by simp [ezsv]⟩ (by simp [hconfig])
    (Rqh.carries_none fun x hx => by cases hx; rfl) (fun hok => State.takeLaw_of_scan ?_)
  have : (u.takeEdit h e).1.rqh.scan = u.rqh.scan := by simp [State.takeEdit, State.finish, State.finishStep]
  rw [this, hscan, scan hok]

/-- A checked edit reaches its apply step: it waits, and in NO_PASS is applied at once (R152). -/
theorem State.reachApply_tables_change (h : Held) (e : Edit) (checked : s.checkedEdit e)
    (free : ok → s.rqh.waitingEdit = none) (scan : ok → s.rqh.scan = none) : s.TableChanges ok (s.reachApply h e) := by
  have held : s.TableChange ok { s with rqh := { s.rqh with held := some { h with stage := .awaitApply e false } } } :=
    .hold e ⟨rfl, rfl, rfl⟩ rfl (Rqh.waitingEdit_of_stage rfl rfl)
      (Rqh.configuring_of_waiting rfl rfl) checked free
      (fun hok => State.takeLaw_of_scan (scan hok))
  unfold State.reachApply
  split
  · exact .single held
  · exact .trans (.single held) (.trans
      (.single (State.takeEdit_tables_change (u := s) h (Rqh.waitingEdit_of_stage rfl rfl) scan rfl rfl rfl rfl rfl rfl))
      (.same (State.applyNow_sameTables _ h _)))

/-- A reserved body reaches its installation (R38, R39, R152). -/
theorem State.reserve_tables_change (h : Held) {b : Building} {shape : CurveShape} (building : s.clb.building = some b)
    (checked : s.clb.checkImage b = .ok shape) (scan : ok → s.rqh.scan = none) :
    s.TableChanges ok (({ s with clb := s.clb.reserve b shape } : State).reachApply h (.install b.target)) := by
  have held : s.TableChange ok { s with
      clb := s.clb.reserve b shape
      rqh := { s.rqh with held := some { h with stage := .awaitApply (.install b.target) false } } } :=
    .reserved b shape building checked rfl rfl rfl (Rqh.waitingEdit_of_stage rfl rfl)
      (Rqh.configuring_of_waiting rfl rfl) rfl
      (fun hok => State.takeLaw_of_scan (scan hok))
  unfold State.reachApply
  split
  · exact .single held
  · exact .trans (.single held) (.trans
      (.single (State.takeEdit_tables_change (u := { s with clb := s.clb.reserve b shape }) h (Rqh.waitingEdit_of_stage rfl rfl) scan rfl rfl rfl rfl rfl rfl))
      (.same (State.applyNow_sameTables _ h _)))

variable (s) in
theorem State.boundaryApply_tables (now : Bool) (law : ok → s.takeLaw) : s.TableChanges ok (s.boundaryApply now).1 := by
  unfold State.boundaryApply
  split
  · exact .refl s
  next h hheld =>
    split
    next e released hstage =>
      have hwaiting := Rqh.waitingEdit_of_stage hheld hstage
      have scan : ok → s.rqh.scan = none := fun hok => by
        rcases hsc : s.rqh.scan with _ | sc
        · rfl
        · have := law hok sc h hsc hheld
          rw [hstage] at this
          cases this
      split
      · exact .single (State.takeEdit_tables_change h hwaiting scan rfl rfl rfl rfl rfl rfl)
      · refine .same ⟨rfl, rfl, rfl, ?_, ?_, rfl, fun hlaw sc x hsc hx => ?_⟩
        · exact (Rqh.waitingEdit_of_stage rfl rfl).trans hwaiting.symm
        · exact (Rqh.configuring_of_waiting rfl rfl).trans (Rqh.configuring_of_waiting hheld hstage).symm
        · have := hlaw sc h hsc hheld
          rw [hstage] at this
          cases this
    all_goals exact .refl s

variable (s) in
theorem State.endPass_tables (last : Bool) (e : Option Event) (law : ok → s.takeLaw) : s.TableChanges ok (s.endPass last e) := by
  have hpass : s.SameTables ({ s with pse := { s.pse with pass := none } } : State) := .of_rqh rfl rfl rfl rfl rfl
  have hscan := State.scanOccasion_sameTables ({ s with pse := { s.pse with pass := none } } : State)
  unfold State.endPass
  dsimp only
  exact .trans (.same hpass) (.trans (.same hscan) (.trans
    (State.boundaryApply_tables _ _ fun hok => hscan.take (hpass.take (law hok)))
    (.trans (.same (State.handTogether_sameTables _ _ _)) (.same (State.afterPass_sameTables _ _)))))

/-! ### Checks -/

/-- What CONFIGURE's checks give of its input word count (R160). -/
theorem State.checkConfigure_inputCount {h : Held} {c : Configuration} (hc : s.checkConfigure h = .ok c) :
    c.inputCount ≤ 1024 := by
  unfold State.checkConfigure at hc
  split at hc
  · cases hc
  · dsimp only at hc
    split at hc
    · cases hc
    next hcount =>
      split at hc
      · cases hc
      · split at hc
        · cases hc
        · split at hc
          · cases hc
          · split at hc
            · cases hc
            · split at hc
              · cases hc
              · split at hc
                · cases hc
                · cases hc
                  show (h.param 1).toNat ≤ 1024
                  omega

/-- What SET_ZONES' checks give of its dwell (R74). -/
theorem checkSetZones_dwell {h : Held} {z : Fin 64} {v : ZoneSet} (hc : checkSetZones h = .ok (z, v)) : 1 ≤ v.dwell := by
  unfold checkSetZones at hc
  split at hc
  · cases hc
  · dsimp only at hc
    split at hc
    · cases hc
    · split at hc
      · cases hc
      · split at hc
        · cases hc
        next hdwell =>
          cases hc
          show 1 ≤ (h.param 4).toNat
          omega

/-- A source that SET_POINT's checks accept lies in its ranges (R49, R50). -/
def Source.legal (src : Source) (i : Fin 256) : Prop :=
  match src with
  | .raw index f lo hi => index ≤ 1023 ∧ f.least ≤ lo.toInt ∧ lo.toInt ≤ hi.toInt ∧ hi.toInt ≤ f.greatest
  | .aggregate first count _ => 2 ≤ count ∧ count ≤ 16 ∧ first + count - 1 < i.val

theorem PointDef.legal_iff (d : PointDef) (i : Fin 256) :
    d.legal i ↔ d.source.legal i ∧ (d.curve = none → d.direction = .forward) ∧ 1 ≤ d.window ∧ d.window ≤ 16 := by
  unfold PointDef.legal Source.legal
  rfl

theorem checkSource_legal {h : Held} {i : Fin 256} {limit : Nat} {src : Source} (hlimit : limit ≤ 1024)
    (hc : checkSource h i limit = .ok src) : src.legal i := by
  unfold checkSource at hc
  split at hc
  · unfold checkRawSource at hc
    split at hc
    · cases hc
    · dsimp only at hc
      split at hc
      · cases hc
      next hindex =>
        split at hc
        · cases hc
        next hspan =>
          cases hc
          exact ⟨by omega, by omega, by omega, by omega⟩
  · split at hc
    · unfold checkAggregateSource at hc
      dsimp only at hc
      split at hc
      · cases hc
      next hcount =>
        split at hc
        · cases hc
        · split at hc
          · cases hc
          next hmember =>
            cases hc
            exact ⟨by omega, by omega, by omega⟩
    · cases hc

/-- What the checks of the binding fields give (R64 reasons 9 to 14). -/
theorem checkBindings_legal {h : Held} {zsv : Zsv} {src : Source} {d : PointDef} (hc : checkBindings h zsv src = .ok d) :
    d.source = src ∧ (d.curve = none → d.direction = .forward) ∧ (1 ≤ d.window ∧ d.window ≤ 16)
    ∧ ∀ z, d.zoneSet = some z → zsv.sets[z].written = true := by
  unfold checkBindings at hc
  dsimp only at hc
  split at hc
  · cases hc
  next curve _ =>
    split at hc
    · cases hc
    · split at hc
      · cases hc
      next hnone =>
        split at hc
        · cases hc
        next zoneSet _ =>
          split_ifs at hc with hwritten hwindow hdir <;> obtain rfl := Except.ok.inj hc
          all_goals
            have hset : ∀ z, zoneSet = some z → zsv.sets[z].written = true := by rintro z rfl; simpa using hwritten
            refine ⟨rfl, fun hcurve => ?_, ⟨by dsimp only; omega, by dsimp only; omega⟩, hset⟩
          · exact absurd ⟨hdir, hcurve⟩ hnone
          · rfl

/-- What the binding check against the live body gives (R65). -/
theorem checkInvertible_spec {clb : Clb} {d : PointDef} (hc : checkInvertible clb d = .ok ()) (c : Fin 64) (body : Body)
    (hdir : d.direction = .inverse) (hcurve : d.curve = some c) (hbody : clb.slots[c].body = some body) :
    body.invertible = true := by
  simp only [checkInvertible, hdir, hcurve, hbody] at hc
  split at hc
  next h => exact h
  · cases hc

/-- A step of a run of checks that is accepted. -/
theorem Except.bind_eq_ok {ε α β : Type} {first : Except ε α} {rest : α → Except ε β} {b : β}
    (h : (first >>= rest) = .ok b) : ∃ a, first = .ok a ∧ rest a = .ok b := by
  cases first with
  | error _ => cases h
  | ok a => exact ⟨a, rfl, h⟩

theorem State.checkSetPoint_checked {h : Held} {i : Fin 256} {d : PointDef} (hc : s.checkSetPoint h = .ok (i, d)) :
    s.checkedEdit (.setPoint i d) := by
  unfold State.checkSetPoint at hc
  split at hc
  · cases hc
  · obtain ⟨src, hsource, hc⟩ := Except.bind_eq_ok hc
    obtain ⟨d', hbindings, hc⟩ := Except.bind_eq_ok hc
    obtain ⟨_, hinvertible, hc⟩ := Except.bind_eq_ok hc
    cases hc
    obtain ⟨rfl, hdirection, hwindow, hzone⟩ := checkBindings_legal hbindings
    exact ⟨fun hlimit => (d.legal_iff i).2 ⟨checkSource_legal hlimit hsource, hdirection, hwindow⟩, hzone,
      checkInvertible_spec hinvertible⟩

/-! ### Work on the held request -/

theorem State.beginWork_tables (h : Held) (free : ok → s.rqh.waitingEdit = none) (scan : s.rqh.scan = none) :
    s.TableChanges ok (s.beginWork h) := by
  have finishes (code : ResultCode) (words : List Word) : s.TableChanges ok (s.finish h code words) :=
    .single (State.finishStep_tables h code _ 0 (fun hok => .inl (free hok)) fun _ => scan)
  have reaches {e : Edit} (checked : s.checkedEdit e) : s.TableChanges ok (s.reachApply h e) :=
    State.reachApply_tables_change h e checked free fun _ => scan
  unfold State.beginWork
  split
  · exact finishes _ _
  · unfold State.workConfigure
    split
    · exact finishes _ _
    next c hc =>
      exact .single (.configure ⟨rfl, rfl, rfl⟩ rfl
        (Rqh.waitingEdit_eq_none fun x e r hx hstage => by cases hx; cases hstage)
        (fun c' hc' => by
          rw [Rqh.configuring_of_stage (r := (s.configureEffect h c).rqh) rfl rfl] at hc'
          cases hc'
          exact State.checkConfigure_inputCount hc) free (fun _ => State.takeLaw_of_scan scan))
  · unfold State.workLoad
    split
    · exact finishes _ _
    · exact .single (.opened _ _ _ rfl rfl rfl rfl (Rqh.carries_none fun x hx => by cases hx; rfl)
        (fun _ => State.takeLaw_of_scan scan))
  · unfold State.workDelete
    split
    · exact finishes _ _
    · dsimp only
      split
      · exact finishes _ _
      · split
        · exact finishes _ _
        · exact reaches trivial
  · unfold State.workQuery
    split <;> exact finishes _ _
  · unfold State.workSetZones
    split
    · exact finishes _ _
    next hc => exact reaches (checkSetZones_dwell hc)
  · unfold State.workSetPoint
    split
    · exact finishes _ _
    next hc => exact reaches (State.checkSetPoint_checked hc)
  · unfold State.workClearPoint
    split
    · exact finishes _ _
    · split
      · exact finishes _ _
      · exact reaches trivial
  · unfold State.workAckZone
    split
    · exact finishes _ _
    · exact reaches trivial
  · unfold State.workReadCounters
    dsimp only
    split
    · exact .trans (t := { s.zeroCounters with rqh := { s.zeroCounters.rqh with effectTaken := true } })
        (.same (.of_held rfl rfl rfl rfl rfl (.inl rfl))) (.single (State.finishStep_tables h _ _ 0 (fun hok => .inl (free hok)) fun _ => scan))
    · exact finishes _ _
  · exact finishes _ _

theorem State.imageWordRead_tables (h : Held) (b : Building) (w : Word) (held : s.rqh.held = some h)
    (stage : h.stage = .imageRead) (building : s.clb.building = some b) (law : ok → s.takeLaw) :
    s.TableChanges ok (s.imageWordRead h b w) := by
  have scan : ok → s.rqh.scan = none := fun hok => by
    rcases hsc : s.rqh.scan with _ | sc
    · rfl
    · have := law hok sc h hsc held
      rw [stage] at this
      cases this
  have buffered : s.TableChanges ok ({ s with clb := s.clb.bufferWord b w } : State) :=
    .single (.buffered b w building rfl rfl rfl rfl rfl)
  unfold State.imageWordRead
  dsimp only
  split
  · exact .trans buffered (.same (.of_rqh rfl rfl rfl rfl rfl))
  · split
    · exact buffered.trans (State.refuseLoad_tables h _ scan)
    next hc => exact .trans buffered (State.reserve_tables_change h rfl hc scan)

/-! ### Failures -/

theorem State.abandonHeld_config (u : State) : u.abandonHeld.eng.config = u.eng.config := by
  unfold State.abandonHeld
  dsimp only
  split
  · rfl
  · split <;> rfl

theorem State.abandonHeld_plain (u : State) (h : Held) (hh : u.abandonHeld.rqh.held = some h) : h.stage.plain = true := by
  unfold State.abandonHeld at hh
  dsimp only at hh
  split at hh
  · cases hh
  · split at hh
    · cases hh
    · cases hh; rfl

theorem State.abandonHeld_scan (u : State) : u.abandonHeld.rqh.scan = none := by
  unfold State.abandonHeld
  dsimp only
  split
  · rfl
  · split <;> rfl

theorem State.enterFault_tables (kind : FaultKind) (c : Client) (offset : Nat) :
    s.TableChanges ok (s.enterFault kind c offset) := by
  refine .trans (t := { s with clb := s.clb.discard }) (.single (.discard rfl rfl rfl rfl rfl)) (.single
    (.of_plain ⟨?_, ?_, ?_⟩ ?_ (State.abandonHeld_plain _) (fun _ => .inr (Clb.discard_spec _).2.1)
      (fun _ => State.takeLaw_of_scan (State.abandonHeld_scan _))))
  · exact (s.enterFault_blocks kind c offset).2.2.1
  · simp
  · simp
  · exact State.abandonHeld_config _

theorem State.accessFailed_tables (kind : FaultKind) (a : Access) (law : ok → s.takeLaw) :
    s.TableChanges ok (s.accessFailed kind a) := by
  unfold State.accessFailed
  split
  · exact .same (.of_rqh rfl rfl rfl rfl rfl)
  · exact State.enterFault_tables _ _ _
  · exact State.enterFault_tables _ _ _
  · split
    · exact State.enterFault_tables _ _ _
    next h hheld =>
      have scan (hstage : h.stage ≠ .taken) : ok → s.rqh.scan = none := fun hok => by
        rcases hsc : s.rqh.scan with _ | sc
        · rfl
        · exact absurd (law hok sc h hsc hheld) hstage
      split
      next hstage =>
        exact State.refuseLoad_tables h _ (scan (by simp [hstage]))
      next hstage =>
        refine .single (.of_plain ⟨rfl, rfl, rfl⟩ rfl (fun x hx => by cases hx) (fun _ => .inl ?_)
          (fun _ => State.takeLaw_of_held rfl))
        exact Rqh.waitingEdit_eq_none fun x e r hx hs => by rw [hheld] at hx; cases hx; rw [hstage] at hs; cases hs
      all_goals exact State.enterFault_tables _ _ _

end

/-! ### Every command -/

section
variable {s : State}

theorem State.waitingEdit_of_scan (law : s.takeLaw) (h : s.rqh.scan ≠ none) : s.rqh.waitingEdit = none := by
  obtain ⟨sc, hsc⟩ := Option.ne_none_iff_exists'.mp h
  refine Rqh.waitingEdit_eq_none fun x e r hx hstage => ?_
  have := law sc x hsc hx
  rw [hstage] at this
  cases this

theorem State.scan_of_held (law : s.takeLaw) {h : Held} (held : s.rqh.held = some h) (stage : h.stage ≠ .taken) :
    s.rqh.scan = none := by
  rcases hsc : s.rqh.scan with _ | sc
  · rfl
  · exact absurd (law sc h hsc held) stage

/-- The answer itself changes no table. -/
theorem State.readDone_sameTables (a : Access) (w : Word) : s.SameTables (s.readDone a w) :=
  .of_rqh rfl rfl rfl rfl rfl

theorem State.writeDone_sameTables (a : Access) : s.SameTables (s.writeDone a) :=
  .of_rqh rfl rfl rfl rfl rfl

theorem State.failDone_sameTables (a : Access) : s.SameTables (s.failDone a) :=
  .of_rqh (by simp) (by simp) (by simp) (by simp) (by simp)

theorem State.attachWordRead_sameTables (w : Word) : s.SameTables (s.attachWordRead w) := by
  unfold State.attachWordRead
  dsimp only
  split
  · exact .of_rqh rfl rfl rfl rfl rfl
  · split <;> exact .of_held rfl rfl rfl rfl rfl (.inl rfl)

theorem State.skipPass_tables {ok : Prop} (w : Word) (law : ok → s.takeLaw) : s.TableChanges ok (s.skipPass w) :=
  .trans (t := { s with pse := { s.pse with skipped := s.pse.skipped + 1, skipFlag := true } })
    (.same (.of_rqh rfl rfl rfl rfl rfl)) (State.endPass_tables _ _ _ law)

theorem State.publish_tables {ok : Prop} (law : ok → s.takeLaw) : s.TableChanges ok s.publish :=
  .trans (t := ({ s with pse := s.pse.afterPublication } : State).raise .passDone)
    (.same (.of_rqh rfl rfl rfl rfl rfl)) (State.endPass_tables _ _ _ law)

theorem State.ClientWork.tables {a : Access} {o : Owner} {u : State} (h : s.ClientWork a o u) : s.TableChanges s.takeLaw u := by
  have read (w : Word) : s.TableChanges s.takeLaw (s.readDone a w) := .same (State.readDone_sameTables a w)
  have write : s.TableChanges s.takeLaw (s.writeDone a) := .same (State.writeDone_sameTables a)
  cases h with
  | attachWord w =>
    exact (read w).trans (.same (State.attachWordRead_sameTables w))
  | startStamp w stage =>
    refine (read w).trans ?_
    unfold State.startStampRead
    split
    · exact State.skipPass_tables w id
    · exact .same (.of_rqh (by simp) (by simp) (by simp) (by simp) (by simp))
  | unconfirmed w stage => exact (read w).trans (.same (.of_rqh (by simp) (by simp) (by simp) (by simp) (by simp)))
  | hold w c stage config => exact (read w).trans (.same (.of_rqh (by simp) (by simp) (by simp) (by simp) (by simp)))
  | filling c k stage config => exact write.trans (State.fillingWritten_tables _ c k)
  | input w c i stage config => exact (read w).trans (State.inputRead_tables _ c i w)
  | entryValue c i v qz stage config =>
    exact write.trans (.same (.of_rqh (by simp) (by simp) (by simp) (by simp) (by simp)))
  | entryQuality c i v qz stage config => exact write.trans (State.entryWritten_tables _ c i v qz)
  | endStamp w c stage config => exact (read w).trans (.same (.of_rqh (by simp) (by simp) (by simp) (by simp) (by simp)))
  | complete c k stage config => exact write.trans (.same (.of_rqh (by simp) (by simp) (by simp) (by simp) (by simp)))
  | publication stage =>
    exact write.trans (State.publish_tables id)
  | configureStored h c had old held stage =>
    refine write.trans (.single (.stored c ⟨rfl, rfl, rfl⟩ rfl (Rqh.carries_none fun x hx => by cases hx; rfl)
      (Rqh.configuring_of_stage held stage) ?_ (fun hok => State.takeLaw_of_scan ?_)))
    · refine Rqh.waitingEdit_eq_none fun x e r (hx : s.rqh.held = some x) hs => ?_
      rw [held] at hx
      cases hx
      rw [stage] at hs
      cases hs
    · exact State.scan_of_held (s := s) hok held (by simp [stage])
  | slotRead w k heads scan => exact (read w).trans (.same (State.slotRead_sameTables _ k heads w (by simp [scan])))
  | stale heads slot k scan => exact write.trans (.same (State.staleWritten_sameTables _ heads slot k (by simp [scan])))
  | parameter w slot head k params scan =>
    exact (read w).trans (.same (State.parameterRead_sameTables _ slot head k params w (by simp [scan])))
  | taken slot head params scan =>
    exact write.trans (.single (State.requestTaken_tables slot head params fun hok =>
      State.waitingEdit_of_scan hok (by simp [scan])))
  | ticket h scan held =>
    refine write.trans (.trans (t := { s.writeDone a with rqh := { s.rqh with scan := none } })
      (.same (.of_held rfl rfl rfl rfl rfl (.inr (.inl rfl)))) (State.beginWork_tables h (fun hok => ?_) rfl))
    exact State.waitingEdit_of_scan (s := s) hok (by simp [scan])
  | image w h b held stage building => exact (read w).trans (State.imageWordRead_tables h b w held stage building id)
  | finishing h code results k held stage =>
    refine write.trans (State.finishingWritten_tables h code results k (fun _ => ?_)
      fun hok => State.scan_of_held hok held (by simp [stage]))
    refine Rqh.waitingEdit_eq_none fun x e r (hx : s.rqh.held = some x) hs => ?_
    rw [held] at hx
    cases hx
    rw [stage] at hs
    cases hs
  | abandon h word0 held stage =>
    have hfree : s.rqh.waitingEdit = none :=
      Rqh.waitingEdit_eq_none fun x e r hx hs => by rw [held] at hx; cases hx; rw [stage] at hs; cases hs
    refine write.trans (.single ?_)
    unfold State.abandonWritten
    split
    · exact .of_plain ⟨rfl, rfl, rfl⟩ rfl (fun x hx => by cases hx) (fun _ => .inl hfree)
        (fun _ => State.takeLaw_of_held rfl)
    · exact .of_plain ⟨rfl, rfl, rfl⟩ rfl (fun x hx => by cases hx; rfl) (fun _ => .inl hfree)
        (fun hok => State.takeLaw_of_scan (State.scan_of_held (s := s) hok held (by simp [stage])))
  | ackWord w c lostFirst e work config =>
    exact (read w).trans (.same (.of_rqh (by simp) (by simp) (by simp) (by simp) (by simp)))
  | recordWord c seq e k behind work config before =>
    exact write.trans (.same (.of_rqh (by simp) (by simp) (by simp) (by simp) (by simp)))
  | recordNumber c seq e behind work config =>
    exact write.trans (.same (.of_rqh (by simp) (by simp) (by simp) (by simp) (by simp)))
  | highWater c seq e behind work config =>
    exact write.trans (.same (.of_rqh (by simp) (by simp) (by simp) (by simp) (by simp)))

/-- The grant that ends a step adds the changes of failures alone. -/
theorem State.TableChanges.settle {u : State} (h : s.TableChanges s.takeLaw u) : s.TableChanges s.takeLaw u.settle :=
  State.settle_keeps h (fun _ _ hv => hv.trans (.same (.of_rqh rfl rfl rfl rfl rfl)))
    (fun _ kind a hv => hv.trans (State.accessFailed_tables kind a fun hok => hv.takeLaw hok hok))

theorem State.TableChanges.settleTogether {u : State} (h : s.TableChanges s.takeLaw u) :
    s.TableChanges s.takeLaw u.settleTogether :=
  State.settleTogether_keeps h (fun _ _ _ _ hv => hv.trans (.same (.of_rqh rfl rfl rfl rfl rfl)))
    (fun _ kind a hv => hv.trans (State.accessFailed_tables kind a fun hok => hv.takeLaw hok hok))

theorem State.powerOn_sameTables : State.reset.SameTables s.powerOn := .of_rqh rfl rfl rfl rfl rfl

theorem State.Takes.tables {t : State} (h : s.Takes t) : s.TableChanges s.takeLaw t := by
  cases h with
  | nothing => exact .refl s
  | powerOn => exact .single (.reset State.powerOn_sameTables)
  | engineReset => exact .single (.restart rfl rfl rfl rfl rfl)
  | detach _ => exact .single (.restart rfl rfl rfl rfl rfl)
  | attach _ => exact .settle (.same (.of_rqh rfl rfl rfl rfl rfl))
  | run _ _ _ _ => exact .same (.of_rqh rfl rfl rfl rfl rfl)
  | stop _ => exact .same (.of_rqh rfl rfl rfl rfl rfl)
  | clear _ _ => exact .same (.of_rqh rfl rfl rfl rfl rfl)
  | wbase _ _ => exact .same (.of_rqh rfl rfl rfl rfl rfl)
  | flags _ _ _ => exact .same (.of_rqh rfl rfl rfl rfl rfl)
  | attend _ => exact .settle (.same s.scanOccasion_sameTables)
  | trigger _ => exact .settle (.same (.of_rqh (by simp) (by simp) (by simp) (by simp) (by simp)))
  | heldAgain h e held stage pass =>
    refine .same ⟨rfl, rfl, rfl, ?_, ?_, rfl, fun hlaw sc x hsc hx => ?_⟩
    · exact (Rqh.waitingEdit_of_stage rfl rfl).trans (Rqh.waitingEdit_of_stage held stage).symm
    · exact (Rqh.configuring_of_waiting rfl rfl).trans (Rqh.configuring_of_waiting held stage).symm
    · have := hlaw sc h hsc held
      rw [stage] at this
      cases this
  | applied h e held stage pass =>
    refine .settleTogether (.trans (.single ?_) (.same (State.handAll_sameTables _ _)))
    exact State.takeEdit_tables_change h (Rqh.waitingEdit_of_stage held stage)
      (fun hok => State.scan_of_held hok held (by simp [stage])) rfl rfl rfl rfl rfl rfl
  | answered a o u awaited work => exact .settle work.tables
  | failed a kind inFlight mark =>
    have hfail := State.failDone_sameTables (s := s) a
    exact .settle (.trans (.same hfail) (State.accessFailed_tables kind a hfail.take))
  | disregarded a u inFlight mark ended =>
    rcases ended with rfl | rfl
    · exact .settle (.same (State.writeDone_sameTables a))
    · exact .settle (.same (State.failDone_sameTables a))

end

/-- A law that every elementary change keeps is kept by every step. -/
theorem step_keeps_of_tableChange {P : State → Prop} {s t : State} (h : step s = .next t) (hs : P s)
    (queue : ∀ rest, P s → P { s with pending := rest })
    (change : ∀ u v, u.TableChange s.takeLaw v → P u → P v) : P t := by
  rcases step_takes h with rfl | ⟨rest, ht⟩
  · exact hs
  · have hchanges : State.TableChanges s.takeLaw ({ s with pending := rest } : State) t := ht.tables
    clear h ht
    induction hchanges with
    | refl => exact queue rest hs
    | tail _ hlast ih => exact change _ _ hlast ih

end Sys2Proof.Machine

/-! The pool of breakpoint blocks and the binding counts (R26, R28, R29). -/
namespace Sys2Proof.Machine

/-! ### Where the blocks are -/

/-- The blocks the live bodies hold. -/
def Clb.liveBlocks (clb : Clb) : List (Fin Config.poolBlocks) := clb.slots.toList.flatMap CurveSlot.blocks

/-- R29 block by block. -/
theorem Clb.poolLaw_iff (clb : Clb) :
    clb.poolLaw ↔ ∀ k, clb.free.count k + clb.liveBlocks.count k + clb.buildingBlocks.count k
      = (List.finRange Config.poolBlocks).count k := by
  simp only [Clb.poolLaw, Clb.liveBlocks, List.perm_iff_count, List.count_append]

/-- The live blocks depend on the slots' bodies alone. -/
theorem Clb.liveBlocks_congr {clb clb' : Clb} (h : ∀ c : Fin 64, clb'.slots[c].body = clb.slots[c].body) :
    clb'.liveBlocks = clb.liveBlocks := by
  unfold Clb.liveBlocks
  rw [List.flatMap_def, List.flatMap_def]
  congr 1
  refine List.ext_getElem (by simp) fun n hn _ => ?_
  have hn : n < 64 := by simpa using hn
  have hbody : clb'.slots[n].body = clb.slots[n].body := h ⟨n, hn⟩
  simp [CurveSlot.blocks, hbody]

/-- Replacing one entry of a list, counted. -/
theorem count_flatMap_set {α β : Type} [BEq β] (f : α → List β) (l : List α) (n : Nat) (h : n < l.length) (x : α) (k : β) :
    ((l.set n x).flatMap f).count k + (f l[n]).count k = (l.flatMap f).count k + (f x).count k := by
  induction l generalizing n with
  | nil => simp at h
  | cons y l ih =>
    cases n with
    | zero => simp; omega
    | succ n =>
      have := ih n (by simpa using h)
      simp
      omega

/-- The live blocks when a slot takes another body. -/
theorem Clb.count_liveBlocks_set (clb clb' : Clb) (c : Fin 64) (slot : CurveSlot) (h : clb'.slots = clb.slots.set c slot)
    (k : Fin Config.poolBlocks) :
    clb'.liveBlocks.count k + clb.slots[c].blocks.count k = clb.liveBlocks.count k + slot.blocks.count k := by
  have := count_flatMap_set CurveSlot.blocks clb.slots.toList c.val (by simp) slot k
  simpa [Clb.liveBlocks, h, Vector.toList_set] using this

theorem CurveSlot.blocks_withBody (slot : CurveSlot) (body : Body) : ({ slot with body := some body } : CurveSlot).blocks = body.blocks :=
  rfl

section
variable {clb : Clb}

theorem Clb.discard_poolLaw (h : clb.poolLaw) : clb.discard.poolLaw := by
  obtain ⟨hslots, hbuilding, hfree⟩ := clb.discard_spec
  rw [Clb.poolLaw_iff] at h ⊢
  intro k
  have hk := h k
  simp only [Clb.liveBlocks, hslots, hfree, Clb.buildingBlocks, hbuilding, List.count_append, List.count_nil] at hk ⊢
  omega

theorem Clb.openBuilding_poolLaw (h : clb.poolLaw) (c : Fin 64) (offset length : Nat) :
    (clb.openBuilding c offset length).poolLaw := by
  have hd := Clb.discard_poolLaw h
  rw [Clb.poolLaw_iff] at hd ⊢
  intro k
  have hk := hd k
  rw [show clb.discard.buildingBlocks = [] by simp [Clb.buildingBlocks, (clb.discard_spec).2.1]] at hk
  exact hk

theorem Clb.bufferWord_poolLaw (h : clb.poolLaw) {b : Building} (hb : clb.building = some b) (w : Word) :
    (clb.bufferWord b w).poolLaw := by
  have : (clb.bufferWord b w).buildingBlocks = clb.buildingBlocks := by
    simp [Clb.buildingBlocks, Clb.bufferWord, hb, Building.blocks]
  unfold Clb.poolLaw at h ⊢
  rw [this]
  exact h

/-- The reserved blocks are taken from the free ones (R38). -/
theorem Clb.reserve_poolLaw (h : clb.poolLaw) (b : Building) (shape : CurveShape) : (clb.reserve b shape).poolLaw := by
  have hd := Clb.discard_poolLaw h
  rw [Clb.poolLaw_iff] at hd ⊢
  intro k
  have hk := hd k
  have hsplit := congrArg (List.count k) (List.take_append_drop shape.blocksNeeded clb.discard.free)
  rw [List.count_append] at hsplit
  rw [show clb.discard.buildingBlocks = [] by simp [Clb.buildingBlocks, (clb.discard_spec).2.1], List.count_nil] at hk
  show (clb.discard.free.drop shape.blocksNeeded).count k + clb.discard.liveBlocks.count k
    + (clb.discard.free.take shape.blocksNeeded).count k = _
  omega

theorem Clb.install_poolLaw (h : clb.poolLaw) {b : Building} {body : Body} (hb : clb.building = some b)
    (hbody : b.body = some body) (c : Fin 64) : (clb.install c body).poolLaw := by
  rw [Clb.poolLaw_iff] at h ⊢
  intro k
  have hk := h k
  have hlive := Clb.count_liveBlocks_set clb (clb.install c body) c _ rfl k
  have hbuilding : clb.buildingBlocks = body.blocks := by simp [Clb.buildingBlocks, hb, Building.blocks, hbody]
  rw [CurveSlot.blocks_withBody] at hlive
  rw [hbuilding] at hk
  show (clb.free ++ clb.slots[c].blocks).count k + _ + ([] : List (Fin Config.poolBlocks)).count k = _
  rw [List.count_append, List.count_nil]
  omega

theorem Clb.delete_poolLaw (h : clb.poolLaw) (c : Fin 64) : (clb.delete c).poolLaw := by
  rw [Clb.poolLaw_iff] at h ⊢
  intro k
  have hk := h k
  have hlive := Clb.count_liveBlocks_set clb (clb.delete c) c _ rfl k
  rw [show ({ clb.slots[c] with body := none } : CurveSlot).blocks = [] from rfl, List.count_nil] at hlive
  show (clb.free ++ clb.slots[c].blocks).count k + _ + clb.buildingBlocks.count k = _
  rw [List.count_append]
  omega

/-- Binding and unbinding move no block. -/
theorem Clb.poolLaw_of_bodies {clb' : Clb} (h : clb.poolLaw) (hfree : clb'.free = clb.free)
    (hbuilding : clb'.building = clb.building) (hbody : ∀ c : Fin 64, clb'.slots[c].body = clb.slots[c].body) :
    clb'.poolLaw := by
  have hlive := Clb.liveBlocks_congr hbody
  unfold Clb.liveBlocks at hlive
  unfold Clb.poolLaw Clb.buildingBlocks at h ⊢
  rw [hfree, hbuilding, hlive]
  exact h

end

/-! ### The edits on the library -/

section
variable (s : State)

theorem State.applyInstall_clb (c : Fin 64) :
    (s.applyInstall c).state.clb = s.clb
    ∨ ∃ b body, s.clb.building = some b ∧ b.body = some body ∧ (s.applyInstall c).state.clb = s.clb.install c body := by
  unfold State.applyInstall
  split
  · exact .inl rfl
  next body hbody =>
    obtain ⟨b, hb, hbody⟩ := Option.bind_eq_some_iff.1 hbody
    exact .inr ⟨b, body, hb, hbody, rfl⟩

theorem State.applyEdit_poolLaw (h : s.clb.poolLaw) (e : Edit) : (s.applyEdit e).state.clb.poolLaw := by
  cases e with
  | install c =>
    rcases s.applyInstall_clb c with heq | ⟨b, body, hb, hbody, heq⟩
    · exact heq.symm ▸ h
    · exact heq.symm ▸ Clb.install_poolLaw h hb hbody c
  | delete c => exact Clb.delete_poolLaw h c
  | setZones z v => simpa [State.applyEdit] using h
  | ackZone t => simpa [State.applyEdit] using h
  | clearPoint i =>
    obtain ⟨hfree, hbuilding, hbody⟩ := s.clb.unbindPoint_spec s.ptb.points[i].definition
    exact Clb.poolLaw_of_bodies h hfree hbuilding hbody
  | setPoint i d =>
    obtain ⟨hfree, hbuilding, hbody⟩ := s.clb.unbindPoint_spec s.ptb.points[i].definition
    obtain ⟨hfree', hbuilding', hbody'⟩ := (s.clb.unbindPoint s.ptb.points[i].definition).bindPoint_spec d
    exact Clb.poolLaw_of_bodies h (hfree'.trans hfree) (hbuilding'.trans hbuilding) fun c => (hbody' c).trans (hbody c)

end

/-- The pool after power-on: every block is free. -/
theorem Clb.powerOn_poolLaw : Clb.powerOn.poolLaw := by
  have hlive : Clb.powerOn.slots.toList.flatMap CurveSlot.blocks = [] := by
    simp [Clb.powerOn, CurveSlot.blocks, CurveSlot.empty]
  unfold Clb.poolLaw
  rw [hlive]
  simp [Clb.powerOn, Clb.buildingBlocks]

theorem State.TableChange.poolLaw {ok : Prop} {s t : State} (h : s.TableChange ok t) (hs : s.clb.poolLaw) :
    t.clb.poolLaw := by
  cases h with
  | same frame => exact frame.clb ▸ hs
  | reset frame => exact frame.clb ▸ Clb.powerOn_poolLaw
  | restart clb => exact clb ▸ Clb.discard_poolLaw hs
  | stage tables => exact tables.1 ▸ hs
  | configure tables => exact tables.1 ▸ hs
  | stored _ tables => exact tables.1 ▸ hs
  | hold _ tables => exact tables.1 ▸ hs
  | discard clb => exact clb ▸ Clb.discard_poolLaw hs
  | opened c offset length clb => exact clb ▸ Clb.openBuilding_poolLaw hs c offset length
  | buffered b w building clb => exact clb ▸ Clb.bufferWord_poolLaw hs building w
  | reserved b shape building checked clb => exact clb ▸ Clb.reserve_poolLaw hs b shape
  | applied e waiting tables => exact tables.1 ▸ s.applyEdit_poolLaw hs e
  | converted i d src definition clb => exact clb ▸ hs

/-! ### Counts (R26) -/

/-- The count a slot keeps of a direction. -/
def CurveSlot.count (slot : CurveSlot) : Direction → Nat
  | .forward => slot.forwardCount
  | .inverse => slot.inverseCount

/-- 1 where a definition binds its point to the slot in the direction, else 0. -/
def bindings (d : Option PointDef) (c : Fin 64) (dir : Direction) : Nat :=
  match d with
  | none => 0
  | some d => if d.curve = some c ∧ d.direction = dir then 1 else 0

theorem Point.toNat_bound (p : Point) (c : Fin 64) (dir : Direction) :
    (p.bound c dir).toNat = bindings p.definition c dir := by
  unfold Point.bound bindings
  cases p.definition with
  | none => rfl
  | some d =>
    dsimp only
    split_ifs with h
    · simp [h.1, h.2]
    · by_cases hc : d.curve = some c
      · simp [hc, (not_and.1 h) hc]
      · simp [hc]

/-- Binding a point adds one to its slot's count of its direction. -/
theorem Clb.bindPoint_count (clb : Clb) (d : PointDef) (c : Fin 64) (dir : Direction) :
    (clb.bindPoint d).slots[c].count dir = clb.slots[c].count dir + bindings (some d) c dir := by
  unfold Clb.bindPoint bindings
  cases hcurve : d.curve with
  | none => simp [hcurve]
  | some e =>
    simp only [Clb.setSlot, Fin.getElem_fin, Vector.getElem_set]
    by_cases he : e = c
    · subst he
      cases hd : d.direction <;> cases dir <;> simp [hcurve, CurveSlot.bind, CurveSlot.count]
    · simp [hcurve, he, Fin.val_ne_of_ne he]

/-- Unbinding one takes one from it. -/
theorem Clb.unbindPoint_count (clb : Clb) (d : Option PointDef) (c : Fin 64) (dir : Direction) :
    (clb.unbindPoint d).slots[c].count dir = clb.slots[c].count dir - bindings d c dir := by
  unfold Clb.unbindPoint bindings
  cases d with
  | none => rfl
  | some d =>
    dsimp only
    cases hcurve : d.curve with
    | none => simp
    | some e =>
      simp only [Clb.setSlot, Fin.getElem_fin, Vector.getElem_set]
      by_cases he : e = c
      · subst he
        cases hd : d.direction <;> cases dir <;> simp [CurveSlot.unbind, CurveSlot.count]
      · simp [he, Fin.val_ne_of_ne he]

theorem State.countLaw_iff (s : State) :
    s.countLaw ↔ ∀ (c : Fin 64) (dir : Direction),
      s.clb.slots[c].count dir = countNamed (fun i => s.ptb.points[i].bound c dir) := by
  constructor
  · intro h c dir
    cases dir with
    | forward => exact (h c).1
    | inverse => exact (h c).2
  · exact fun h c => ⟨h c .forward, h c .inverse⟩

/-- How many points are picked, as a sum. -/
theorem countNamed_eq_sum (f : Fin 256 → Bool) : countNamed f = ∑ i, (f i).toNat := by
  have : ∀ l : List (Fin 256), (l.filter f).length = (l.map fun i => (f i).toNat).sum := by
    intro l
    induction l with
    | nil => rfl
    | cons i l ih => cases h : f i <;> simp [h, ih]; omega
  rw [Fin.sum_univ_def]
  exact this _

/-- Picking one point differently, counted. -/
theorem countNamed_update {f g : Fin 256 → Bool} (i : Fin 256) (h : ∀ j, j ≠ i → f j = g j) :
    countNamed f + (g i).toNat = countNamed g + (f i).toNat := by
  have hrest : ∑ j ∈ Finset.univ.erase i, (f j).toNat = ∑ j ∈ Finset.univ.erase i, (g j).toNat :=
    Finset.sum_congr rfl fun j hj => by rw [h j (Finset.ne_of_mem_erase hj)]
  have hf := Finset.add_sum_erase Finset.univ (fun j => (f j).toNat) (Finset.mem_univ i)
  have hg := Finset.add_sum_erase Finset.univ (fun j => (g j).toNat) (Finset.mem_univ i)
  rw [countNamed_eq_sum, countNamed_eq_sum]
  omega

/-- The points bound to a slot when one point's record is replaced. -/
theorem countNamed_bound_set (points : Vector Point 256) (i : Fin 256) (p : Point) (c : Fin 64) (dir : Direction) :
    countNamed (fun j => (points.set i p)[j].bound c dir) + bindings points[i].definition c dir
      = countNamed (fun j => points[j].bound c dir) + bindings p.definition c dir := by
  have h := countNamed_update (f := fun j => (points.set i p)[j].bound c dir) (g := fun j => points[j].bound c dir) i
    fun j hj => by simp [Fin.val_ne_of_ne (Ne.symm hj)]
  simpa [Point.toNat_bound] using h

/-- The counts depend on the slots' counts and the points' definitions alone. -/
theorem State.countLaw_congr {s t : State} (h : s.countLaw)
    (hcount : ∀ (c : Fin 64) dir, t.clb.slots[c].count dir = s.clb.slots[c].count dir)
    (hdef : ∀ i : Fin 256, t.ptb.points[i].definition = s.ptb.points[i].definition) : t.countLaw := by
  rw [State.countLaw_iff] at h ⊢
  intro c dir
  rw [hcount, h]
  congr 1
  funext i
  unfold Point.bound
  rw [hdef]

theorem Ptb.restartAll_definition (ptb : Ptb) (i : Fin 256) : ptb.restartAll.points[i].definition = ptb.points[i].definition := by
  simp [Ptb.restartAll, Point.restart]

theorem Ptb.emptyBound_definition (ptb : Ptb) (c : Fin 64) (i : Fin 256) :
    (ptb.emptyBound c).points[i].definition = ptb.points[i].definition := by
  simp only [Ptb.emptyBound, Fin.getElem_fin, tabulate_getElem]
  split <;> rfl

theorem CurveSlot.count_withBody (slot : CurveSlot) (body : Option Body) (dir : Direction) :
    ({ slot with body := body } : CurveSlot).count dir = slot.count dir := by cases dir <;> rfl

/-- Another body in a slot leaves every count. -/
theorem count_setBody (slots : Vector CurveSlot 64) (c c' : Fin 64) (body : Option Body) (dir : Direction) :
    (slots.set c { slots[c] with body := body })[c'].count dir = slots[c'].count dir := by
  simp only [Fin.getElem_fin, Vector.getElem_set]
  split
  next h => simp only [CurveSlot.count_withBody, h]
  · rfl

theorem Point.update_definition (p : Point) (window : Nat) (conv : Conversion) :
    (p.update window conv).point.definition = p.definition := by cases conv <;> rfl

/-- An entry of a table with one entry replaced keeps a field that the new entry keeps. -/
theorem definition_set (points : Vector Point 256) (i : Fin 256) {p : Point} (h : p.definition = points[i].definition)
    (j : Fin 256) : (points.set i p)[j].definition = points[j].definition := by
  simp only [Fin.getElem_fin, Vector.getElem_set]
  split
  next hij =>
    obtain rfl : i = j := Fin.ext hij
    exact h
  · rfl

section
variable (s : State)

theorem State.applyInstall_definition (c : Fin 64) (i : Fin 256) :
    (s.applyInstall c).state.ptb.points[i].definition = s.ptb.points[i].definition := by
  unfold State.applyInstall
  split
  · rfl
  · exact Ptb.emptyBound_definition _ _ _

theorem State.applyEdit_countLaw (h : s.countLaw) (e : Edit) : (s.applyEdit e).state.countLaw := by
  cases e with
  | install c =>
    refine State.countLaw_congr h (fun c' dir => ?_) (s.applyInstall_definition c)
    rcases s.applyInstall_clb c with heq | ⟨b, body, _, _, heq⟩
    · simp only [State.applyEdit, heq]
    · simp only [State.applyEdit, heq]
      exact count_setBody _ c c' _ dir
  | delete c => exact State.countLaw_congr h (fun c' dir => count_setBody _ c c' _ dir) fun i => rfl
  | setZones z v => exact State.countLaw_congr h (by simp [State.applyEdit]) (by simp [State.applyEdit])
  | ackZone t => exact State.countLaw_congr h (by simp [State.applyEdit]) (by simp [State.applyEdit])
  | clearPoint i =>
    rw [State.countLaw_iff] at h ⊢
    intro c dir
    have hpoints := countNamed_bound_set s.ptb.points i Point.unused c dir
    have hnone : bindings Point.unused.definition c dir = 0 := rfl
    refine (s.clb.unbindPoint_count _ c dir).trans ?_
    rw [h]
    show _ = countNamed (fun j => (s.ptb.points.set i Point.unused)[j].bound c dir)
    omega
  | setPoint i d =>
    rw [State.countLaw_iff] at h ⊢
    intro c dir
    have hpoints := countNamed_bound_set s.ptb.points i (Point.restart (some d)) c dir
    have hunused := countNamed_bound_set s.ptb.points i Point.unused c dir
    have hnone : bindings Point.unused.definition c dir = 0 := rfl
    have hsome : bindings (Point.restart (some d)).definition c dir = bindings (some d) c dir := rfl
    refine (Clb.bindPoint_count _ d c dir).trans ?_
    rw [Clb.unbindPoint_count, h]
    show _ = countNamed (fun j => (s.ptb.points.set i (Point.restart (some d)))[j].bound c dir)
    omega

end

theorem State.reset_countLaw : State.reset.countLaw := by
  have hnone : ∀ (c : Fin 64) (dir : Direction) (i : Fin 256), State.reset.ptb.points[i].bound c dir = false := by
    intro c dir i
    simp [State.reset, Ptb.powerOn, Point.bound, Point.unused]
  rw [State.countLaw_iff]
  intro c dir
  simp only [hnone, countNamed_eq_sum]
  cases dir <;> simp [State.reset, Clb.powerOn, CurveSlot.count, CurveSlot.empty]

theorem State.TableChange.countLaw {ok : Prop} {s t : State} (h : s.TableChange ok t) (hs : s.countLaw) : t.countLaw := by
  have kept (hslots : t.clb.slots = s.clb.slots) (hptb : t.ptb = s.ptb) : t.countLaw :=
    State.countLaw_congr hs (by simp [hslots]) (by simp [hptb])
  cases h with
  | same frame => exact kept (by rw [frame.clb]) frame.ptb
  | reset frame => exact State.countLaw_congr State.reset_countLaw (by simp [frame.clb]) (by simp [frame.ptb])
  | restart clb ptb =>
    exact State.countLaw_congr hs (by simp [clb, s.clb.discard_spec.1]) fun i => by rw [ptb, Ptb.restartAll_definition]
  | stage tables => exact kept (by rw [tables.1]) tables.2.1
  | configure tables => exact kept (by rw [tables.1]) tables.2.1
  | stored _ tables => exact kept (by rw [tables.1]) tables.2.1
  | hold _ tables => exact kept (by rw [tables.1]) tables.2.1
  | discard clb ptb => exact kept (by rw [clb, s.clb.discard_spec.1]) ptb
  | opened c offset length clb ptb => exact kept (by rw [clb]; exact s.clb.discard_spec.1) ptb
  | buffered b w building clb ptb => exact kept (by rw [clb]; rfl) ptb
  | reserved b shape building checked clb ptb => exact kept (by rw [clb]; exact s.clb.discard_spec.1) ptb
  | applied e waiting tables =>
    exact State.countLaw_congr (s.applyEdit_countLaw hs e) (by simp [tables.1]) (by simp [tables.2.1])
  | converted i d src definition clb ptb =>
    refine State.countLaw_congr hs (by simp [clb]) fun j => ?_
    rw [ptb]
    exact definition_set _ i (Point.update_definition _ _ _) j

/-- Settles O53: each elementary change keeps the pool and the counts. -/
theorem poolAndCountLawsAreKept : Obligations.PoolAndCountLawsAreKept := fun _ _ h =>
  ⟨fun hs => step_keeps_of_tableChange (P := fun s => s.clb.poolLaw) h hs (fun _ => id) fun _ _ => State.TableChange.poolLaw,
    fun hs => step_keeps_of_tableChange (P := State.countLaw) h hs (fun _ => id) fun _ _ => State.TableChange.countLaw⟩

end Sys2Proof.Machine

/-! The law of invertible bodies (R27) and what keeps it. -/
namespace Sys2Proof.Machine

/-! ### The parts of the law -/

/-- No whole body is under construction. -/
def Clb.unreserved (clb : Clb) : Prop := ∀ b : Building, clb.building = some b → b.body = none

/-- A SET_POINT that waits binds INVERSE to an invertible body or an EMPTY slot (R65). -/
def State.settingInvertible (s : State) : Prop :=
  ∀ (i : Fin 256) (d : PointDef) (c : Fin 64) (body : Body), s.rqh.waitingEdit = some (.setPoint i d) →
    d.direction = .inverse → d.curve = some c → s.clb.slots[c].body = some body → body.invertible = true

/-- R27 with its guard. -/
def State.invertibleLaw (s : State) : Prop :=
  s.clb.liveInvertible ∧ s.clb.buildingInvertible ∧ s.invertibleGuard

section
variable {s t : State} {clb clb' : Clb}

theorem Clb.unreserved_of_none (h : clb.building = none) : clb.unreserved := by
  intro b hb
  rw [h] at hb
  cases hb

theorem Clb.discard_unreserved (clb : Clb) : clb.discard.unreserved := Clb.unreserved_of_none clb.discard_spec.2.1

theorem State.settingInvertible_of_waitingEdit (h : s.rqh.waitingEdit = none) : s.settingInvertible := by
  intro i d c body hw
  rw [h] at hw
  cases hw

/-- With no whole body under construction the live bodies and the waiting SET_POINT are what matters. -/
theorem State.invertibleLaw_of_unreserved (live : s.clb.liveInvertible) (building : s.clb.unreserved)
    (setting : s.settingInvertible) (take : s.takeLaw) : s.invertibleLaw := by
  have whole (b : Building) (body : Body) (hb : s.clb.building = some b) : b.body ≠ some body := by
    rw [building b hb]
    exact nofun
  exact ⟨live, fun b body hb hbody => absurd hbody (whole b body hb),
    fun b body hb hbody => absurd hbody (whole b body hb), setting, take⟩

/-- When another edit waits than an installation, or none, no whole body is under construction. -/
theorem State.unreserved_of_waitingEdit (h : s.invertibleGuard)
    (waiting : ∀ c, s.rqh.waitingEdit ≠ some (.install c)) : s.clb.unreserved := by
  intro b hb
  cases hbody : b.body with
  | none => rfl
  | some body => exact absurd (h.1 b body hb hbody) (waiting _)

theorem State.unreserved_of_free (h : s.invertibleGuard) (free : s.rqh.waitingEdit = none ∨ s.clb.building = none) :
    s.clb.unreserved := by
  rcases free with free | free
  · exact State.unreserved_of_waitingEdit h (by simp [free])
  · exact Clb.unreserved_of_none free

/-- Live bodies stay invertible where no body comes and no inverse count leaves 0. -/
theorem Clb.liveInvertible_of_slots (h : clb.liveInvertible)
    (body : ∀ (c : Fin 64) (body : Body), clb'.slots[c].body = some body → clb.slots[c].body = some body)
    (count : ∀ c : Fin 64, clb'.slots[c].inverseCount ≠ 0 → clb.slots[c].inverseCount ≠ 0) : clb'.liveInvertible :=
  fun c b hb hc => h c b (body c b hb) (count c hc)

theorem Clb.liveInvertible_congr (h : clb.liveInvertible) (slots : clb'.slots = clb.slots) : clb'.liveInvertible :=
  Clb.liveInvertible_of_slots h (by simp [slots]) (by simp [slots])

theorem Clb.powerOn_liveInvertible : Clb.powerOn.liveInvertible := by
  intro c body hbody
  simp [Clb.powerOn, CurveSlot.empty] at hbody

/-! ### The edits -/

theorem CurveSlot.inverseCount_ne_zero_iff (slot : CurveSlot) : slot.inverseCount ≠ 0 ↔ slot.count .inverse ≠ 0 := Iff.rfl

theorem Clb.delete_liveInvertible (h : clb.liveInvertible) (c : Fin 64) : (clb.delete c).liveInvertible := by
  refine Clb.liveInvertible_of_slots h (fun e body hbody => ?_) fun e he => ?_
  · simp only [Clb.delete, Fin.getElem_fin, Vector.getElem_set] at hbody
    split at hbody
    · cases hbody
    · exact hbody
  · rwa [CurveSlot.inverseCount_ne_zero_iff, Clb.delete, count_setBody] at he

/-- The installed body is invertible when its slot has an inverse count. -/
theorem Clb.install_liveInvertible (h : clb.liveInvertible) (c : Fin 64) (body : Body)
    (invertible : clb.slots[c].inverseCount ≠ 0 → body.invertible = true) : (clb.install c body).liveInvertible := by
  intro e b hb he
  rw [CurveSlot.inverseCount_ne_zero_iff, Clb.install, count_setBody] at he
  simp only [Clb.install, Fin.getElem_fin, Vector.getElem_set] at hb
  split at hb
  next hce =>
    obtain rfl : c = e := Fin.ext hce
    cases hb
    exact invertible he
  · exact h e b hb he

theorem Clb.unbindPoint_liveInvertible (h : clb.liveInvertible) (d : Option PointDef) : (clb.unbindPoint d).liveInvertible := by
  obtain ⟨-, -, hbody⟩ := clb.unbindPoint_spec d
  refine Clb.liveInvertible_of_slots h (fun c b hb => hbody c ▸ hb) fun c hc hzero => hc ?_
  have := clb.unbindPoint_count d c .inverse
  simp only [CurveSlot.count] at this
  omega

/-- A point may be bound INVERSE to an invertible body or an EMPTY slot. -/
theorem Clb.bindPoint_liveInvertible (h : clb.liveInvertible) (d : PointDef)
    (invertible : ∀ c body, d.direction = .inverse → d.curve = some c → clb.slots[c].body = some body →
      body.invertible = true) : (clb.bindPoint d).liveInvertible := by
  obtain ⟨-, -, hbodies⟩ := clb.bindPoint_spec d
  intro c b hb hc
  rw [hbodies] at hb
  have hcount := clb.bindPoint_count d c .inverse
  by_cases hd : d.curve = some c ∧ d.direction = .inverse
  · exact invertible c b hd.2 hd.1 hb
  · simp only [CurveSlot.count, bindings, if_neg hd] at hcount
    exact h c b hb (by omega)

theorem State.applyEdit_invertible (h : s.invertibleLaw) {e : Edit} (waiting : s.rqh.waitingEdit = some e) :
    (s.applyEdit e).state.clb.liveInvertible ∧ (s.applyEdit e).state.clb.unreserved := by
  obtain ⟨live, building, guard⟩ := h
  have unreserved (he : ∀ c, e ≠ .install c) : s.clb.unreserved :=
    State.unreserved_of_waitingEdit guard (by rw [waiting]; simpa using he)
  cases e with
  | install c =>
    show (s.applyInstall c).state.clb.liveInvertible ∧ (s.applyInstall c).state.clb.unreserved
    unfold State.applyInstall
    split
    next hnone =>
      exact ⟨live, fun b hb => by rw [hb] at hnone; exact hnone⟩
    next body hsome =>
      obtain ⟨b, hb, hbody⟩ := Option.bind_eq_some_iff.1 hsome
      have htarget := guard.1 b body hb hbody
      rw [waiting] at htarget
      cases htarget
      exact ⟨Clb.install_liveInvertible live _ _ (building b body hb hbody), Clb.unreserved_of_none rfl⟩
  | delete c => exact ⟨Clb.delete_liveInvertible live c, unreserved (fun _ => nofun)⟩
  | setZones z v => simpa [State.applyEdit] using And.intro live (unreserved (fun _ => nofun))
  | ackZone target => simpa [State.applyEdit] using And.intro live (unreserved (fun _ => nofun))
  | clearPoint i =>
    refine ⟨Clb.unbindPoint_liveInvertible live _, fun b hb => unreserved (fun _ => nofun) b ?_⟩
    exact (s.clb.unbindPoint_spec _).2.1 ▸ hb
  | setPoint i d =>
    obtain ⟨-, hbuilding, hbodies⟩ := s.clb.unbindPoint_spec s.ptb.points[i].definition
    refine ⟨Clb.bindPoint_liveInvertible (Clb.unbindPoint_liveInvertible live _) d fun c body hdir hcurve hbody => ?_,
      fun b hb => unreserved (fun _ => nofun) b ?_⟩
    · exact guard.2.1 i d c body waiting hdir hcurve (hbodies c ▸ hbody)
    · have hb : ((s.clb.unbindPoint s.ptb.points[i].definition).bindPoint d).building = some b := hb
      rwa [(Clb.bindPoint_spec _ d).2.1, hbuilding] at hb

/-- A reserved body is invertible when its slot has an inverse count (R37). -/
theorem Clb.reserve_buildingInvertible {b : Building} {shape : CurveShape} (checked : clb.checkImage b = .ok shape) :
    (clb.reserve b shape).buildingInvertible := by
  obtain ⟨_, -, checked⟩ := Except.bind_eq_ok checked
  obtain ⟨shape', -, checked⟩ := Except.bind_eq_ok checked
  obtain ⟨_, hbinding, checked⟩ := Except.bind_eq_ok checked
  obtain ⟨_, -, checked⟩ := Except.bind_eq_ok checked
  cases checked
  intro b' body hb hbody hcount
  cases hb
  cases hbody
  have hcount : clb.slots[b.target].inverseCount ≠ 0 := by
    have := clb.discard_spec.1
    simpa [Clb.reserve, this] using hcount
  unfold bindingCheck at hbinding
  split at hbinding
  · cases hbinding
  next hfit => simpa using not_and.1 hfit (Nat.pos_of_ne_zero hcount)

theorem State.reset_invertibleLaw : State.reset.invertibleLaw :=
  State.invertibleLaw_of_unreserved Clb.powerOn_liveInvertible (Clb.unreserved_of_none rfl)
    (State.settingInvertible_of_waitingEdit rfl) State.takeLaw_reset

theorem State.SameTables.invertibleLaw (h : s.SameTables t) (hs : s.invertibleLaw) : t.invertibleLaw := by
  obtain ⟨live, building, whole, setting, take⟩ := hs
  rw [← h.clb] at live building whole setting
  rw [← h.waitingEdit] at whole setting
  exact ⟨live, building, whole, setting, h.take take⟩

theorem State.TableChange.invertibleLaw {ok : Prop} (hok : ok) (h : s.TableChange ok t) (hs : s.invertibleLaw) :
    t.invertibleLaw := by
  obtain ⟨live, building, guard⟩ := id hs
  have take : t.takeLaw := h.takeLaw hok guard.2.2
  cases h with
  | same frame => exact frame.invertibleLaw hs
  | reset frame => exact frame.invertibleLaw State.reset_invertibleLaw
  | restart clb _ _ held =>
    refine State.invertibleLaw_of_unreserved ?_ (by rw [clb]; exact Clb.discard_unreserved _)
      (State.settingInvertible_of_waitingEdit (Rqh.waitingEdit_eq_none fun x e r hx => by rw [held] at hx; cases hx)) take
    exact Clb.liveInvertible_congr live (by rw [clb, s.clb.discard_spec.1])
  | stage tables _ plain free =>
    exact State.invertibleLaw_of_unreserved (tables.1 ▸ live) (tables.1 ▸ State.unreserved_of_free guard (free hok))
      (State.settingInvertible_of_waitingEdit plain.1) take
  | configure tables _ waitingEdit _ free =>
    exact State.invertibleLaw_of_unreserved (tables.1 ▸ live) (tables.1 ▸ State.unreserved_of_free guard (.inl (free hok)))
      (State.settingInvertible_of_waitingEdit waitingEdit) take
  | stored _ tables _ plain _ free =>
    exact State.invertibleLaw_of_unreserved (tables.1 ▸ live) (tables.1 ▸ State.unreserved_of_free guard (.inl free))
      (State.settingInvertible_of_waitingEdit plain.1) take
  | hold e tables _ waitingEdit _ checked free =>
    refine State.invertibleLaw_of_unreserved (tables.1 ▸ live) (tables.1 ▸ State.unreserved_of_free guard (.inl (free hok)))
      (fun i d c body hw hdir hcurve hbody => ?_) take
    obtain rfl := Option.some.inj (waitingEdit.symm.trans hw)
    exact checked.2.2 c body hdir hcurve (tables.1 ▸ hbody)
  | discard clb _ _ rqh =>
    refine State.invertibleLaw_of_unreserved (Clb.liveInvertible_congr live (by rw [clb, s.clb.discard_spec.1]))
      (by rw [clb]; exact Clb.discard_unreserved _) (fun i d c body hw hdir hcurve hbody => ?_) take
    rw [rqh] at hw
    rw [clb, s.clb.discard_spec.1] at hbody
    exact guard.2.1 i d c body hw hdir hcurve hbody
  | opened c offset length clb _ _ _ plain =>
    refine State.invertibleLaw_of_unreserved ?_ ?_ (State.settingInvertible_of_waitingEdit plain.1) take
    · exact Clb.liveInvertible_congr live (by rw [clb]; exact s.clb.discard_spec.1)
    · rw [clb]
      intro b hb
      cases hb
      rfl
  | buffered b w hbuilding clb _ _ rqh =>
    refine ⟨Clb.liveInvertible_congr live (by rw [clb]; rfl), ?_, ?_, ?_, take⟩
    · rw [clb]
      intro b' body hb hbody
      cases hb
      exact building b body hbuilding hbody
    · rw [clb, rqh]
      intro b' body hb hbody
      cases hb
      exact guard.1 b body hbuilding hbody
    · rw [clb, rqh]
      exact guard.2.1
  | reserved b shape _ checked clb _ _ waitingEdit =>
    refine ⟨Clb.liveInvertible_congr live (by rw [clb]; exact s.clb.discard_spec.1),
      clb ▸ Clb.reserve_buildingInvertible checked, ?_, fun i d c body hw => ?_, take⟩
    · rw [clb]
      intro b' body hb hbody
      cases hb
      exact waitingEdit
    · rw [waitingEdit] at hw
      cases hw
  | applied e waiting tables _ plain =>
    obtain ⟨live, unreserved⟩ := State.applyEdit_invertible hs waiting
    exact State.invertibleLaw_of_unreserved (tables.1 ▸ live) (tables.1 ▸ unreserved)
      (State.settingInvertible_of_waitingEdit plain.1) take
  | converted i d src definition clb _ _ rqh =>
    exact ⟨clb ▸ live, clb ▸ building, by rw [clb, rqh]; exact guard.1, by rw [clb, rqh]; exact guard.2.1, take⟩

end

/-- Settles O54: each elementary change keeps R27 with its guard. -/
theorem invertibleLawIsKept : Obligations.InvertibleLawIsKept := fun _ _ h hs =>
  step_keeps_of_tableChange (P := State.invertibleLaw) h hs (fun _ => id) fun _ _ change =>
    change.invertibleLaw hs.2.2.2.2

end Sys2Proof.Machine

/-! The laws of the points (R49 to R52) and of the zones (R73, R78). -/
namespace Sys2Proof.Machine

/-! ### Points -/

section
variable {s t : State} {p : Point} {i : Fin 256}

theorem Point.legal_some {d : PointDef} (hd : p.definition = some d) :
    p.legal i ↔ d.legal i ∧ p.history.length ≤ d.window := by
  unfold Point.legal
  rw [hd]

theorem Point.unused_legal : Point.unused.legal i := ⟨rfl, rfl, rfl⟩

theorem Point.restart_legal {d : PointDef} (h : d.legal i) : (Point.restart (some d)).legal i := ⟨h, Nat.zero_le _⟩

/-- A point restarted on its own definition is legal. -/
theorem Point.legal.restart (h : p.legal i) : (Point.restart p.definition).legal i := by
  cases hd : p.definition with
  | none => exact Point.unused_legal
  | some d => exact Point.restart_legal ((Point.legal_some hd).1 h).1

theorem Point.legal.emptyHistory (h : p.legal i) : p.emptyHistory.legal i := by
  unfold Point.legal at h ⊢
  cases hd : p.definition with
  | none =>
    rw [hd] at h
    simp only [Point.emptyHistory, hd]
    exact ⟨trivial, h.2⟩
  | some d =>
    rw [hd] at h
    simp only [Point.emptyHistory, hd]
    exact ⟨h.1, Nat.zero_le _⟩

theorem joinHistory_length_le {window : Nat} {history : List Word} (x : Word) (hpos : 1 ≤ window)
    (h : history.length ≤ window) : (joinHistory window history x).length ≤ window := by
  rw [joinHistory_eq, List.length_append, List.length_singleton]
  split
  · rw [List.length_drop]; omega
  · omega

theorem Point.legal.update {d : PointDef} (h : p.legal i) (hd : p.definition = some d) (conv : Conversion) :
    (p.update d.window conv).point.legal i := by
  obtain ⟨hlegal, hlength⟩ := (Point.legal_some hd).1 h
  refine (Point.legal_some ((Point.update_definition p d.window conv).trans hd)).2 ⟨hlegal, ?_⟩
  cases conv with
  | usable x q => exact joinHistory_length_le x hlegal.2.2.1 hlength
  | unusable q => exact hlength

/-- Every point of a table is legal. -/
def Ptb.legal (ptb : Ptb) : Prop := ∀ i : Fin 256, ptb.points[i].legal i

theorem Ptb.legal.set {ptb : Ptb} (h : ptb.legal) (hp : p.legal i) : (⟨ptb.points.set i p⟩ : Ptb).legal := by
  intro j
  simp only [Fin.getElem_fin, Vector.getElem_set]
  split
  next hij =>
    obtain rfl : i = j := Fin.ext hij
    exact hp
  · exact h j

theorem Ptb.legal.restartAll {ptb : Ptb} (h : ptb.legal) : ptb.restartAll.legal := by
  intro i
  simpa only [Ptb.restartAll, Fin.getElem_fin, tabulate_getElem] using (h i).restart

theorem Ptb.legal.emptyBound {ptb : Ptb} (h : ptb.legal) (c : Fin 64) : (ptb.emptyBound c).legal := by
  intro i
  simp only [Ptb.emptyBound, Fin.getElem_fin, tabulate_getElem]
  split
  · exact (h i).emptyHistory
  · exact h i

theorem Ptb.powerOn_legal : Ptb.powerOn.legal := by
  intro i
  simpa [Ptb.powerOn] using Point.unused_legal

/-- The law of the points, what a CONFIGURE under way carries said of RQH. -/
theorem State.pointLaw_iff : s.pointLaw ↔ s.ptb.legal
    ∧ (∀ (i : Fin 256) (d : PointDef), s.rqh.waitingEdit = some (.setPoint i d) → d.legal i)
    ∧ (∀ c, s.eng.config = some c → c.inputCount ≤ 1024)
    ∧ ∀ c, s.rqh.configuring = some c → c.inputCount ≤ 1024 := by
  refine and_congr_right fun _ => and_congr_right fun _ => and_congr_right fun _ => ⟨fun h c hc => ?_, fun h x c had old hx hstage => ?_⟩
  · unfold Rqh.configuring at hc
    split at hc
    next hheld => exact h _ c _ _ hheld (by cases hc; rfl)
    · cases hc
  · exact h c (Rqh.configuring_of_stage hx hstage)

theorem State.inputLimit_le (h : ∀ c, s.eng.config = some c → c.inputCount ≤ 1024) : s.inputLimit ≤ 1024 := by
  unfold State.inputLimit
  split
  next c hc => exact h c hc
  · exact Nat.le_refl _

theorem State.applyEdit_pointsLegal (h : s.ptb.legal) {e : Edit}
    (setting : ∀ i d, e = .setPoint i d → d.legal i) : (s.applyEdit e).state.ptb.legal := by
  cases e with
  | install c =>
    show (s.applyInstall c).state.ptb.legal
    unfold State.applyInstall
    split
    · exact h
    · exact h.emptyBound c
  | delete c => exact h
  | setZones z v => simpa [State.applyEdit] using h
  | ackZone target => simpa [State.applyEdit] using h
  | clearPoint i => exact h.set Point.unused_legal
  | setPoint i d => exact h.set (Point.restart_legal (setting i d rfl))

theorem State.TableChange.pointLaw {ok : Prop} (h : s.TableChange ok t) (hs : s.pointLaw) : t.pointLaw := by
  rw [State.pointLaw_iff] at hs ⊢
  obtain ⟨points, setting, stored, configuring⟩ := hs
  cases h with
  | same frame =>
    rw [frame.ptb, frame.waitingEdit, frame.config, frame.configuring]
    exact ⟨points, setting, stored, configuring⟩
  | reset frame =>
    rw [frame.ptb, frame.waitingEdit, frame.config, frame.configuring]
    exact ⟨Ptb.powerOn_legal, nofun, nofun, nofun⟩
  | restart _ ptb _ held config =>
    have carries : t.rqh.waitingEdit = none ∧ t.rqh.configuring = none :=
      Rqh.carries_none fun x hx => by rw [held] at hx; cases hx
    rw [ptb, config, carries.1, carries.2]
    exact ⟨points.restartAll, nofun, nofun, nofun⟩
  | stage tables config plain =>
    rw [tables.2.1, config, plain.1, plain.2]
    exact ⟨points, nofun, stored, nofun⟩
  | configure tables config waitingEdit count =>
    rw [tables.2.1, config, waitingEdit]
    exact ⟨points, nofun, nofun, count⟩
  | stored c tables config plain hconfiguring =>
    rw [tables.2.1, config, plain.1, plain.2]
    exact ⟨points, nofun, fun c' hc => by cases hc; exact configuring c hconfiguring, nofun⟩
  | hold e tables config waitingEdit hconfiguring checked =>
    rw [tables.2.1, config, waitingEdit, hconfiguring]
    refine ⟨points, fun i d hd => ?_, stored, nofun⟩
    cases hd
    exact checked.1 (State.inputLimit_le stored)
  | discard _ ptb _ rqh config =>
    rw [ptb, rqh, config]
    exact ⟨points, setting, stored, configuring⟩
  | opened _ _ _ _ ptb _ config plain =>
    rw [ptb, config, plain.1, plain.2]
    exact ⟨points, nofun, stored, nofun⟩
  | buffered _ _ _ _ ptb _ rqh config =>
    rw [ptb, rqh, config]
    exact ⟨points, setting, stored, configuring⟩
  | reserved _ _ _ _ _ ptb _ waitingEdit hconfiguring config =>
    rw [ptb, waitingEdit, hconfiguring, config]
    exact ⟨points, nofun, stored, nofun⟩
  | applied e waiting tables config plain =>
    rw [tables.2.1, config, plain.1, plain.2]
    exact ⟨s.applyEdit_pointsLegal points fun i d he => setting i d (he ▸ waiting), nofun, stored, nofun⟩
  | converted i d src definition _ ptb _ rqh config =>
    rw [ptb, rqh, config]
    exact ⟨points.set ((points i).update definition _), setting, stored, configuring⟩

end

/-- Settles O55: each elementary change keeps the law of the points. -/
theorem pointLawIsKept : Obligations.PointLawIsKept := fun _ _ h hs =>
  step_keeps_of_tableChange (P := State.pointLaw) h hs (fun _ => id) fun _ _ change => change.pointLaw

/-! ### Zones -/

/-- A zone state that a zone set of this dwell can give (R78). -/
def ZoneState.legalUnder (z : ZoneState) (dwell : Nat) : Prop :=
  z ≠ .none ∧ ∀ k, z.pendingCount = some k → 1 ≤ k ∧ k < dwell

theorem ZoneState.legalUnder_of_settled {z : ZoneState} (dwell : Nat) (h : z ≠ .none) (hk : z.pendingCount = Option.none) :
    z.legalUnder dwell := ⟨h, fun k hz => by rw [hk] at hz; cases hz⟩

section
variable {set : ZoneSet} {p : PointZone} {dwell : Nat}

theorem ZoneSet.fromInside_legal (h : 1 ≤ set.dwell) (v : Int) (mark : Bool) :
    (set.fromInside v mark).zone.state.legalUnder set.dwell := by
  rw [ZoneSet.fromInside_eq]
  split_ifs
  all_goals refine ⟨nofun, fun k hk => ?_⟩; cases hk
  all_goals omega

/-- A usable value takes a legal zone state to a legal one (R80 to R83). -/
theorem ZoneSet.moveUsable_legal (hd : 1 ≤ set.dwell) (h : p.state.legalUnder set.dwell) (v : Int) :
    (set.moveUsable p v).zone.state.legalUnder set.dwell := by
  have inside (mark : Bool) := ZoneSet.fromInside_legal hd v mark
  have settled {z : ZoneState} (hz : z ≠ .none) (hk : z.pendingCount = none) :=
    ZoneState.legalUnder_of_settled set.dwell hz hk
  unfold ZoneSet.moveUsable
  split
  next hp => exact absurd hp h.1
  · exact inside _
  · exact inside _
  next k hp =>
    have hk := h.2 k (by rw [hp]; rfl)
    split_ifs
    · exact settled nofun rfl
    · refine ⟨nofun, fun k' hk' => ?_⟩
      cases hk'
      omega
    · exact inside _
  next k hp =>
    have hk := h.2 k (by rw [hp]; rfl)
    split_ifs
    · exact settled nofun rfl
    · refine ⟨nofun, fun k' hk' => ?_⟩
      cases hk'
      omega
    · exact inside _
  · split_ifs
    · exact settled nofun rfl
    · exact inside _
    · exact h
  · split_ifs
    · exact settled nofun rfl
    · exact inside _
    · exact h
  · split_ifs
    · exact settled nofun rfl
    · exact h
  · split_ifs
    · exact settled nofun rfl
    · exact h

theorem PointZone.moveUnusable_legal (h : p.state.legalUnder dwell) : p.moveUnusable.state.legalUnder dwell := by
  unfold PointZone.moveUnusable
  split
  · exact ZoneState.legalUnder_of_settled _ nofun rfl
  · exact ZoneState.legalUnder_of_settled _ nofun rfl
  all_goals exact h

theorem PointZone.acknowledge_legal (h : p.state.legalUnder dwell) : p.acknowledge.zone.state.legalUnder dwell := by
  unfold PointZone.acknowledge
  split
  · exact ZoneState.legalUnder_of_settled _ nofun rfl
  · exact ZoneState.legalUnder_of_settled _ nofun rfl
  all_goals exact h

/-- An adjusted point has no pending count, so its state is legal under any dwell (R76). -/
theorem PointZone.adjust_legal (h : p.state.legalUnder dwell) (latch : Bool) (dwell' : Nat) :
    (p.adjust latch).zone.state.legalUnder dwell' := by
  unfold PointZone.adjust
  split
  · exact ZoneState.legalUnder_of_settled _ nofun rfl
  · exact ZoneState.legalUnder_of_settled _ nofun rfl
  next hp =>
    split_ifs
    · exact ZoneState.legalUnder_of_settled _ h.1 (by rw [hp]; rfl)
    · exact ZoneState.legalUnder_of_settled _ nofun rfl
  next hp =>
    split_ifs
    · exact ZoneState.legalUnder_of_settled _ h.1 (by rw [hp]; rfl)
    · exact ZoneState.legalUnder_of_settled _ nofun rfl
  all_goals rename_i hp; exact ZoneState.legalUnder_of_settled _ h.1 (by rw [hp]; rfl)

theorem PointZone.acknowledge_none (h : p.state = .none) : p.acknowledge.zone = p := by
  simp [PointZone.acknowledge, h]

end

section
variable {zsv zsv' : Zsv} {p : Point} {z : PointZone}

/-- The zone set a point names. -/
def Point.zoneSet (p : Point) : Option (Fin 64) := p.definition.bind PointDef.zoneSet

theorem Zsv.legalFor_none (h : p.zoneSet = none) : zsv.legalFor p z ↔ z.state = .none := by
  unfold Point.zoneSet at h
  unfold Zsv.legalFor
  rw [h]

theorem Zsv.legalFor_some {n : Fin 64} (h : p.zoneSet = some n) :
    zsv.legalFor p z ↔ zsv.sets[n].written = true ∧ z.state.legalUnder zsv.sets[n].dwell := by
  unfold Point.zoneSet at h
  unfold Zsv.legalFor
  rw [h]
  exact Iff.rfl

/-- The law depends on the sets, on the zone set the point names, and on its zone alone. -/
theorem Zsv.legalFor_congr {p' : Point} (hsets : zsv'.sets = zsv.sets) (hp : p'.definition = p.definition) :
    zsv'.legalFor p' z ↔ zsv.legalFor p z := by
  unfold Zsv.legalFor
  rw [hsets, hp]

theorem Zsv.legalFor.start (h : ∀ n, p.zoneSet = some n → zsv.sets[n].written = true) :
    zsv.legalFor p (PointZone.start p.definition) := by
  rw [PointZone.start_eq]
  cases hn : p.zoneSet with
  | none =>
    rw [Zsv.legalFor_none hn]
    simpa [Point.zoneSet] using hn
  | some n =>
    rw [Zsv.legalFor_some hn]
    refine ⟨h n hn, ?_⟩
    rw [show p.definition.bind PointDef.zoneSet = some n from hn]
    exact ZoneState.legalUnder_of_settled _ nofun rfl

theorem Zsv.legalFor.written (h : zsv.legalFor p z) (n : Fin 64) (hn : p.zoneSet = some n) : zsv.sets[n].written = true :=
  ((Zsv.legalFor_some hn).1 h).1

theorem Zsv.evaluate_legal {d : PointDef} (hd : p.definition = some d) (dwell : ∀ n : Fin 64, 1 ≤ zsv.sets[n].dwell)
    (h : zsv.legalFor p z) (value : Word) (q : Quality) : zsv.legalFor p (zsv.evaluate d.zoneSet z value q).zone := by
  have hname : p.zoneSet = d.zoneSet := by simp [Point.zoneSet, hd]
  unfold Zsv.evaluate
  cases hn : d.zoneSet with
  | none => exact h
  | some n =>
    have hn := hname.trans hn
    obtain ⟨written, hlegal⟩ := (Zsv.legalFor_some hn).1 h
    refine (Zsv.legalFor_some hn).2 ⟨written, ?_⟩
    dsimp only
    split
    · exact ZoneSet.moveUsable_legal (dwell n) hlegal _
    · exact PointZone.moveUnusable_legal hlegal

theorem Zsv.acknowledge_legal (h : zsv.legalFor p z) : zsv.legalFor p z.acknowledge.zone := by
  cases hn : p.zoneSet with
  | none =>
    rw [PointZone.acknowledge_none ((Zsv.legalFor_none hn).1 h)]
    exact h
  | some n =>
    obtain ⟨written, hlegal⟩ := (Zsv.legalFor_some hn).1 h
    exact (Zsv.legalFor_some hn).2 ⟨written, PointZone.acknowledge_legal hlegal⟩

theorem Point.namesZone_iff {n : Fin 64} : p.namesZone n = true ↔ p.zoneSet = some n := by
  unfold Point.namesZone Point.zoneSet
  cases p.definition <;> simp

end

/-- The dwells and the points' zones are legal. -/
def State.zonesLegal (s : State) : Prop :=
  (∀ z : Fin 64, 1 ≤ s.zsv.sets[z].dwell) ∧ ∀ i : Fin 256, s.zsv.legalFor s.ptb.points[i] s.zsv.zones[i]

/-- What a waiting edit carries has been checked. -/
def State.editLegal (s : State) (e : Edit) : Prop :=
  match e with
  | .setZones _ v => 1 ≤ v.dwell
  | .setPoint _ d => ∀ z, d.zoneSet = some z → s.zsv.sets[z].written = true
  | .install _ | .delete _ | .clearPoint _ | .ackZone _ => True

section
variable {s t : State}

theorem State.zoneLaw_iff : s.zoneLaw ↔ s.zonesLegal ∧ ∀ e, s.rqh.waitingEdit = some e → s.editLegal e := by
  constructor
  · rintro ⟨dwell, points, setting, binding⟩
    refine ⟨⟨dwell, points⟩, fun e he => ?_⟩
    cases e with
    | setZones z v => exact setting z v he
    | setPoint i d => exact fun z => binding i d z he
    | install | delete | clearPoint | ackZone => trivial
  · rintro ⟨⟨dwell, points⟩, edits⟩
    exact ⟨dwell, points, fun z v he => edits _ he, fun i d z he => edits _ he z⟩

theorem State.zonesLegal_congr (h : s.zonesLegal) (hzsv : t.zsv = s.zsv)
    (hptb : ∀ i : Fin 256, t.ptb.points[i].definition = s.ptb.points[i].definition) : t.zonesLegal := by
  refine ⟨hzsv ▸ h.1, fun i => ?_⟩
  rw [hzsv]
  exact (Zsv.legalFor_congr rfl (hptb i)).2 (h.2 i)

/-- Moving the zones of some points keeps the law where each move does. -/
theorem State.moveZones_legal (named : Fin 256 → Bool) (move : PointZone → ZoneMove)
    (dwell : ∀ z : Fin 64, 1 ≤ s.zsv.sets[z].dwell)
    (rest : ∀ i : Fin 256, named i = false → s.zsv.legalFor s.ptb.points[i] s.zsv.zones[i])
    (moved : ∀ i : Fin 256, named i = true → s.zsv.legalFor s.ptb.points[i] (move s.zsv.zones[i]).zone) :
    (s.moveZones named move).1.zonesLegal := by
  refine ⟨by simpa using dwell, fun i => ?_⟩
  rw [s.moveZones_zones named move i, Zsv.legalFor_congr (zsv := s.zsv) (p := s.ptb.points[i]) (by simp) (by simp)]
  cases hi : named i with
  | false => simpa using rest i hi
  | true => simpa using moved i hi

theorem State.applySetZones_legal (h : s.zonesLegal) (z : Fin 64) (v : ZoneSet) (hv : 1 ≤ v.dwell) :
    (s.applySetZones z v).state.zonesLegal := by
  have sets (n : Fin 64) : (s.zsv.sets.set z { v with written := true })[n]
      = if z = n then { v with written := true } else s.zsv.sets[n] := by
    simp [Vector.getElem_set, Fin.ext_iff]
  refine State.moveZones_legal (s := { s with zsv := { s.zsv with sets := s.zsv.sets.set z { v with written := true } } })
    (fun i => s.ptb.points[i].namesZone z) (fun p => p.adjust v.latch) (fun n => ?_) (fun i hi => ?_) (fun i hi => ?_)
  · show 1 ≤ (s.zsv.sets.set z { v with written := true })[n].dwell
    rw [sets]
    split
    · exact hv
    · exact h.1 n
  · cases hn : s.ptb.points[i].zoneSet with
    | none => exact (Zsv.legalFor_none hn).2 ((Zsv.legalFor_none hn).1 (h.2 i))
    | some n =>
      have hne : z ≠ n := by
        rintro rfl
        rw [Point.namesZone_iff.2 hn] at hi
        cases hi
      refine (Zsv.legalFor_some hn).2 ?_
      show (s.zsv.sets.set z { v with written := true })[n].written = true
        ∧ s.zsv.zones[i].state.legalUnder (s.zsv.sets.set z { v with written := true })[n].dwell
      rw [sets, if_neg hne]
      exact (Zsv.legalFor_some hn).1 (h.2 i)
  · have hn := Point.namesZone_iff.1 hi
    refine (Zsv.legalFor_some hn).2 ⟨?_, PointZone.adjust_legal ((Zsv.legalFor_some hn).1 (h.2 i)).2 _ _⟩
    show (s.zsv.sets.set z { v with written := true })[z].written = true
    rw [sets, if_pos rfl]

/-- A point's record and zone replaced together. -/
theorem State.zonesLegal_set (h : s.zonesLegal) (i : Fin 256) (p : Point) (z : PointZone) (hp : s.zsv.legalFor p z)
    (ptb : t.ptb = ⟨s.ptb.points.set i p⟩) (zsv : t.zsv = { s.zsv with zones := s.zsv.zones.set i z }) : t.zonesLegal := by
  rw [State.zonesLegal, ptb, zsv]
  refine ⟨h.1, fun j => ?_⟩
  simp only [Fin.getElem_fin, Vector.getElem_set]
  split
  · exact hp
  · exact h.2 j

theorem State.applyEdit_zonesLegal (h : s.zonesLegal) {e : Edit} (checked : s.editLegal e) :
    (s.applyEdit e).state.zonesLegal := by
  cases e with
  | install c =>
    refine State.zonesLegal_congr h ?_ (s.applyInstall_definition c)
    simp [State.applyEdit]
  | delete c => exact h
  | setZones z v => exact State.applySetZones_legal h z v checked
  | setPoint i d =>
    exact State.zonesLegal_set h i (Point.restart (some d)) (PointZone.start (some d))
      (Zsv.legalFor.start (p := Point.restart (some d)) checked) rfl rfl
  | clearPoint i =>
    exact State.zonesLegal_set h i Point.unused (PointZone.start none)
      (Zsv.legalFor.start (p := Point.unused) nofun) rfl rfl
  | ackZone target =>
    exact State.moveZones_legal _ _ h.1 (fun i _ => h.2 i) fun i _ => Zsv.acknowledge_legal (h.2 i)

theorem State.reset_zonesLegal : State.reset.zonesLegal := by
  refine ⟨fun z => ?_, fun i => ?_⟩
  · simp [State.reset, Zsv.powerOn, ZoneSet.unwritten]
  · simp [State.reset, Zsv.powerOn, Ptb.powerOn, Zsv.legalFor, Point.unused, PointZone.unsupervised]

theorem State.zonesLegal_restart (h : s.zonesLegal) (ptb : t.ptb = s.ptb.restartAll)
    (zsv : t.zsv = s.zsv.restartAll s.ptb) : t.zonesLegal := by
  refine ⟨by rw [zsv]; exact h.1, fun i => ?_⟩
  have hzone : t.zsv.zones[i] = PointZone.start s.ptb.points[i].definition := by simp [zsv, Zsv.restartAll]
  have hsets : t.zsv.sets = s.zsv.sets := by rw [zsv]; rfl
  have hdef : t.ptb.points[i].definition = s.ptb.points[i].definition := by rw [ptb, Ptb.restartAll_definition]
  rw [hzone, Zsv.legalFor_congr hsets hdef]
  exact Zsv.legalFor.start (h.2 i).written

theorem State.TableChange.zoneLaw {ok : Prop} (h : s.TableChange ok t) (hs : s.zoneLaw) : t.zoneLaw := by
  rw [State.zoneLaw_iff] at hs ⊢
  obtain ⟨zones, edits⟩ := hs
  have kept (hzsv : t.zsv = s.zsv) (hptb : t.ptb = s.ptb) : t.zonesLegal :=
    State.zonesLegal_congr zones hzsv fun i => by rw [hptb]
  have none (hw : t.rqh.waitingEdit = none) : ∀ e, t.rqh.waitingEdit = some e → t.editLegal e := by
    rw [hw]
    exact nofun
  have edit_congr {e : Edit} (hzsv : t.zsv.sets = s.zsv.sets) (he : s.editLegal e) : t.editLegal e := by
    cases e with
    | setPoint i d => exact fun z hz => hzsv ▸ he z hz
    | setZones => exact he
    | install | delete | clearPoint | ackZone => trivial
  cases h with
  | same frame =>
    refine ⟨kept frame.zsv frame.ptb, fun e he => ?_⟩
    exact edit_congr (by rw [frame.zsv]) (edits e (frame.waitingEdit ▸ he))
  | reset frame =>
    exact ⟨State.zonesLegal_congr State.reset_zonesLegal frame.zsv fun i => by rw [frame.ptb], none frame.waitingEdit⟩
  | restart _ ptb zsv held =>
    exact ⟨State.zonesLegal_restart zones ptb zsv,
      none (Rqh.waitingEdit_eq_none fun x e r hx => by rw [held] at hx; cases hx)⟩
  | stage tables _ plain => exact ⟨kept tables.2.2 tables.2.1, none plain.1⟩
  | configure tables _ waitingEdit => exact ⟨kept tables.2.2 tables.2.1, none waitingEdit⟩
  | stored _ tables _ plain => exact ⟨kept tables.2.2 tables.2.1, none plain.1⟩
  | hold e tables _ waitingEdit _ checked =>
    refine ⟨kept tables.2.2 tables.2.1, fun e' he => ?_⟩
    obtain rfl := Option.some.inj (waitingEdit.symm.trans he)
    refine edit_congr (by rw [tables.2.2]) ?_
    cases e with
    | setZones => exact checked
    | setPoint => exact checked.2.1
    | install | delete | clearPoint | ackZone => trivial
  | discard _ ptb zsv rqh =>
    exact ⟨kept zsv ptb, fun e he => edit_congr (by rw [zsv]) (edits e (rqh ▸ he))⟩
  | opened _ _ _ _ ptb zsv _ plain => exact ⟨kept zsv ptb, none plain.1⟩
  | buffered _ _ _ _ ptb zsv rqh =>
    exact ⟨kept zsv ptb, fun e he => edit_congr (by rw [zsv]) (edits e (rqh ▸ he))⟩
  | reserved _ _ _ _ _ ptb zsv waitingEdit =>
    refine ⟨kept zsv ptb, fun e he => ?_⟩
    obtain rfl := Option.some.inj (waitingEdit.symm.trans he)
    trivial
  | applied e waiting tables _ plain =>
    refine ⟨?_, none plain.1⟩
    exact State.zonesLegal_congr (s.applyEdit_zonesLegal zones (edits e waiting)) tables.2.2 fun i => by rw [tables.2.1]
  | converted i d src definition _ ptb zsv rqh =>
    obtain ⟨v, q, zsv⟩ := zsv
    refine ⟨State.zonesLegal_set zones i _ _ ?_ ptb zsv, fun e he => edit_congr (by rw [zsv]) (edits e (rqh ▸ he))⟩
    rw [Zsv.legalFor_congr rfl (Point.update_definition _ _ _)]
    exact Zsv.evaluate_legal definition zones.1 (zones.2 i) v q

end

/-- Settles O56: each elementary change keeps the law of the zones. -/
theorem zoneLawIsKept : Obligations.ZoneLawIsKept := fun _ _ h hs =>
  step_keeps_of_tableChange (P := State.zoneLaw) h hs (fun _ => id) fun _ _ change => change.zoneLaw

end Sys2Proof.Machine

/-! What a step can do to the window, to WBASE, and to the pass and its number. -/
namespace Sys2Proof.Machine

/-! ### Work on a held request -/

/-- `s.WorkBegun h u`: the work RQH can begin on the held request `h` (R151). -/
inductive State.WorkBegun (s : State) (h : Held) : State → Prop
  | finish (code : ResultCode) (words : List Word) : s.WorkBegun h (s.finish h code words)
  | configure (c : Configuration) (checked : s.checkConfigure h = .ok c) : s.WorkBegun h (s.configureEffect h c)
  | load (c : Fin 64) (offset length : Nat) (checked : s.checkLoad h = .ok (c, offset, length)) :
    s.WorkBegun h (({ s with
      clb := s.clb.openBuilding c offset length
      rqh := { s.rqh with held := some { h with stage := .imageRead } } } : State).issue .rqh offset .read)
  | reach (e : Edit) : s.WorkBegun h (s.reachApply h e)
  | counters (words : List Word) :
    s.WorkBegun h (({ s.zeroCounters with rqh := { s.zeroCounters.rqh with effectTaken := true } } : State).finish h .ok words)

theorem State.beginWork_begun (s : State) (h : Held) : s.WorkBegun h (s.beginWork h) := by
  unfold State.beginWork
  split
  · exact .finish _ _
  · unfold State.workConfigure
    split
    · exact .finish _ _
    next c hc => exact .configure c hc
  · unfold State.workLoad
    split
    · exact .finish _ _
    next c offset length hc => exact .load c offset length hc
  · unfold State.workDelete
    split
    · exact .finish _ _
    · dsimp only
      split
      · exact .finish _ _
      · split
        · exact .finish _ _
        · exact .reach _
  · unfold State.workQuery
    split <;> exact .finish _ _
  · unfold State.workSetZones
    split
    · exact .finish _ _
    · exact .reach _
  · unfold State.workSetPoint
    split
    · exact .finish _ _
    · exact .reach _
  · unfold State.workClearPoint
    split
    · exact .finish _ _
    · split
      · exact .finish _ _
      · exact .reach _
  · unfold State.workAckZone
    split
    · exact .finish _ _
    · exact .reach _
  · unfold State.workReadCounters
    dsimp only
    split
    · exact .counters _
    · exact .finish _ _
  · exact .finish _ _

/-! ### The window -/

/-- The window stands, or the word of an access in flight stands in it. -/
def State.windowKept (s t : State) : Prop :=
  t.window = s.window
  ∨ ∃ a, s.bip.inFlight = some a ∧ Memory.sameOutside s.window t.window (s.busAddress a.offset)

section
variable {s t : State}

theorem State.windowKept.wf (h : s.windowKept t) (hs : Memory.wf s.window = true) : Memory.wf t.window = true := by
  rcases h with h | ⟨a, -, h | ⟨w, h⟩⟩
  · exact h ▸ hs
  · exact h ▸ hs
  · exact h ▸ Memory.wf_writeWord _ _ _ hs

theorem State.windowKept.readByte (h : s.windowKept t) (address : Nat) (hb : ¬s.inFlightByte address) :
    Memory.readByte t.window address = Memory.readByte s.window address := by
  rcases h with h | ⟨a, ha, h | ⟨w, h⟩⟩
  · rw [h]
  · rw [h]
  · rw [h]
    unfold State.inFlightByte at hb
    rw [ha] at hb
    exact Memory.readByte_writeWord_other _ _ _ _ (by dsimp only at hb; omega)

theorem State.takeComplete_window (s : State) (h : Held) : (s.takeComplete h).window = s.window := by
  simp [State.takeComplete]

/-- The work taken up at an answer leaves the window as the answer leaves it. -/
theorem State.ClientWork.window {a : Access} {o : Owner} (h : s.ClientWork a o t) :
    Memory.sameOutside s.window t.window (s.busAddress a.offset) := by
  have write : (s.writeDone a).window = (s.completedAccess a).window := (s.writeDone_frame a).2.2.2.2.2.2.2.2.1
  have written := State.completedAccess_sameOutside s a
  cases h with
  | attachWord w => exact .inr ⟨w, by simp⟩
  | startStamp w => exact .inr ⟨w, by simp⟩
  | unconfirmed w => exact .inr ⟨w, by simp⟩
  | hold w => exact .inr ⟨w, by simp⟩
  | input w => exact .inr ⟨w, by simp⟩
  | endStamp w => exact .inr ⟨w, by simp⟩
  | slotRead w => exact .inr ⟨w, by simp⟩
  | parameter w => exact .inr ⟨w, by simp⟩
  | image w => exact .inr ⟨w, by simp⟩
  | ackWord w => exact .inr ⟨w, by simp⟩
  | ticket h =>
    rw [State.takeComplete_window, write]
    exact written
  | _ => simpa using written

theorem State.Takes.window (h : s.Takes t) : s.windowKept t := by
  have fails (a : Access) : Memory.sameOutside s.window (s.failDone a).window (s.busAddress a.offset) := by
    simpa [State.failDone, State.busAddress] using State.failedAccess_sameOutside s.endInFlight a
  cases h with
  | powerOn =>
    cases ha : s.bip.inFlight with
    | none => exact .inl (by simp [State.powerOn, ha])
    | some a =>
      refine .inr ⟨a, ha, ?_⟩
      rcases s.interruptedAccess_window a with h | ⟨w, -, h⟩
      · exact .inl (by simp [State.powerOn, ha, h])
      · exact .inr ⟨w, by simp [State.powerOn, ha, h]⟩
  | answered a o u awaited work =>
    exact .inr ⟨a, (State.awaited_eq_some.1 awaited).1, by simpa using work.window⟩
  | failed a kind inFlight mark => exact .inr ⟨a, inFlight, by simpa using fails a⟩
  | disregarded a u inFlight mark ended =>
    refine .inr ⟨a, inFlight, ?_⟩
    rcases ended with rfl | rfl
    · simpa using State.completedAccess_sameOutside s a
    · simpa using fails a
  | _ => exact .inl (by simp [State.engineReset, State.detach])

/-! ### WBASE -/

theorem State.beginWork_wbase (s : State) (h : Held) : (s.beginWork h).eng.wbase = s.eng.wbase := by
  have := s.beginWork_begun h
  generalize s.beginWork h = u at this
  cases this <;> simp [State.configureEffect]

theorem State.endPass_wbase (s : State) (last : Bool) (e : Option Event) : (s.endPass last e).eng.wbase = s.eng.wbase := by
  rw [(s.endPass_spec last e).1]
  split <;> rfl

theorem State.ClientWork.wbase {a : Access} {o : Owner} (h : s.ClientWork a o t) : t.eng.wbase = s.eng.wbase := by
  cases h with
  | attachWord w =>
    unfold State.attachWordRead
    dsimp only
    split
    · simp
    · split
      · simp [State.attachFailed]
      · simp [State.attached]
  | startStamp w =>
    unfold State.startStampRead
    split
    · simp [State.skipPass, State.endPass_wbase]
    · simp
  | publication => simp [State.publish, State.endPass_wbase]
  | stale heads slot k =>
    unfold State.staleWritten
    split <;> simp
  | finishing h code results k =>
    unfold State.finishingWritten
    split <;> simp
  | abandon h word0 =>
    unfold State.abandonWritten
    split <;> simp [State.completeFaultEntry]
  | ticket h => simp [State.takeComplete, State.beginWork_wbase]
  | configureStored => simp [State.configureStored]
  | _ => simp

theorem State.accessFailed_wbase (s : State) (kind : FaultKind) (a : Access) :
    (s.accessFailed kind a).eng.wbase = s.eng.wbase := by
  have fault (c : Client) (o : Nat) : (s.enterFault kind c o).eng.wbase = s.eng.wbase :=
    (s.enterFault_blocks kind c o).2.2.2.2.2.2.1
  unfold State.accessFailed
  split
  · simp [State.attachFailed]
  · exact fault _ _
  · exact fault _ _
  · split
    · exact fault _ _
    · split
      · simp
      · simp [State.secondFault, State.completeFaultEntry]
      all_goals exact fault _ _

theorem State.settle_wbase (s : State) : s.settle.eng.wbase = s.eng.wbase :=
  State.settle_keeps (P := fun t => t.eng.wbase = s.eng.wbase) rfl (fun _ _ h => h)
    fun t kind a h => (t.accessFailed_wbase kind a).trans h

theorem State.settleTogether_wbase (s : State) : s.settleTogether.eng.wbase = s.eng.wbase :=
  State.settleTogether_keeps (P := fun t => t.eng.wbase = s.eng.wbase) rfl (fun _ _ _ _ h => h)
    fun t kind a h => (t.accessFailed_wbase kind a).trans h

/-- WBASE stands, or is 0, or is set to a multiple of 4 in DETACHED. -/
theorem State.Takes.wbase_cases (h : s.Takes t) :
    t.eng.wbase = s.eng.wbase ∨ t.eng.wbase = 0
    ∨ (s.eng.engine = .detached ∧ ∃ w, t.eng.wbase = w &&& 0xFFFFFFFC) := by
  cases h with
  | powerOn => exact .inr (.inl rfl)
  | wbase w engine => exact .inr (.inr ⟨engine, w, rfl⟩)
  | answered a o u awaited work => exact .inl (by rw [State.settle_wbase, work.wbase])
  | applied => exact .inl (by simp [State.settleTogether_wbase])
  | failed a kind => exact .inl (by simp [State.settle_wbase, State.accessFailed_wbase])
  | disregarded a u inFlight mark ended =>
    refine .inl ?_
    rcases ended with rfl | rfl <;> simp [State.settle_wbase]
  | _ => exact .inl (by simp [State.settle_wbase, State.engineReset, Eng.reset, State.detach, Eng.withFlags])

theorem Eng.wbaseLaw_of_masked {e : Eng} {w : Word} (h : e.wbase = w &&& 0xFFFFFFFC) : e.wbaseLaw := by
  unfold Eng.wbaseLaw
  rw [h, BitVec.toNat_and]
  have : (w.toNat &&& (0xFFFFFFFC : Word).toNat) % 2 ^ 2 = 0 := by
    rw [Nat.and_mod_two_pow]
    simp
  exact this

theorem State.Takes.wbaseLaw (h : s.Takes t) (hs : s.eng.wbaseLaw) : t.eng.wbaseLaw := by
  rcases h.wbase_cases with h | h | ⟨-, w, h⟩
  · unfold Eng.wbaseLaw at hs ⊢
    rw [h]
    exact hs
  · unfold Eng.wbaseLaw
    rw [h]
    rfl
  · exact Eng.wbaseLaw_of_masked h

end

/-- Settles O19: a command changes the window at the access in flight alone. -/
theorem onlyTheAccessInFlightChangesTheWindow : Obligations.OnlyTheAccessInFlightChangesTheWindow :=
  fun _ _ _ h => (exec_takes h).window.readByte

end Sys2Proof.Machine

/-! The pass, its number, and the triggers (R94, R97, R98, R107). -/
namespace Sys2Proof.Machine

/-! ### What a step can do to the pass -/

/-- The work of a pass between its number and its publication. -/
def Pse.working (p : Pse) : Prop := p.numbered ∧ p.pass ≠ some .publicationWrite

/-- `s.PassChange u`: what the work of one step, failures apart, can do to the pass, its number and its triggers. -/
inductive State.PassChange (s u : State) : Prop
  | kept (number : u.pse.passNumber = s.pse.passNumber) (pass : u.pse.pass = s.pse.pass)
    (timer : u.pse.timer ≠ none → s.pse.timer ≠ none) (engine : u.eng.engine = .running → s.eng.engine = .running)
    (trigger : s.pse.pendingLaw → u.pse.pendingLaw)
  | cleared (number : u.pse.passNumber = 0) (order : u.pse.bankOrder = []) (trigger : s.pse.pendingLaw → u.pse.pendingLaw)
  | run (number : u.pse.passNumber = s.pse.passNumber) (notLast : s.pse.passNumber ≠ Word.max)
    (pass : u.pse.pass = s.pse.pass) (trigger : s.pse.pendingLaw → u.pse.pendingLaw)
  | began (source : s.pse.timer ≠ none ∨ s.eng.engine = .running) (was : s.pse.pass = none)
    (number : u.pse.passNumber = s.pse.passNumber) (pass : u.pse.pass = some .startStamp)
  | numbered (was : s.pse.pass = some .startStamp) (number : u.pse.passNumber = s.pse.passNumber + 1)
    (pass : u.pse.working)
  | onward (was : s.pse.working) (number : u.pse.passNumber = s.pse.passNumber) (pass : u.pse.numbered)
  | ended (was : s.pse.pass = some .startStamp ∨ s.pse.pass = some .publicationWrite)
    (number : u.pse.passNumber = s.pse.passNumber) (pass : u.pse.pass = none ∨ u.pse.pass = some .startStamp)
    (trigger : u.pse.pendingLaw)
    (last : s.pse.pass = some .publicationWrite → s.pse.passNumber = Word.max →
      u.pse.pass = none ∧ u.pse.timer = none ∧ u.eng.engine ≠ .running)

/-- PSE stands but for its counters, and the engine does not begin to run. -/
theorem State.PassChange.of_pse {s u : State} (h : u.pse = s.pse) (engine : u.eng.engine = .running → s.eng.engine = .running) :
    s.PassChange u :=
  .kept (by rw [h]) (by rw [h]) (by rw [h]; exact id) engine (by rw [h]; exact id)

/-- The change depends on PSE and the engine state it begins from alone. -/
theorem State.PassChange.of_frame {s s' u : State} (h : s'.PassChange u) (pse : s'.pse = s.pse) (eng : s'.eng = s.eng) :
    s.PassChange u := by
  obtain ⟨eng', rqh, clb, ptb, zsv, pse', evr, bip, window, freeIndex, pending⟩ := s'
  cases pse
  cases eng
  cases h with
  | kept number pass timer engine trigger => exact .kept number pass timer engine trigger
  | cleared number order trigger => exact .cleared number order trigger
  | run number notLast pass trigger => exact .run number notLast pass trigger
  | began source was number pass => exact .began source was number pass
  | numbered was number pass => exact .numbered was number pass
  | onward was number pass => exact .onward was number pass
  | ended was number pass trigger last => exact .ended was number pass trigger last

/-- The pass goes on to a stage past its number. -/
theorem Pse.numbered_of_stage {p : Pse} {stage : PassStage} (h : p.pass = some stage) (hs : stage ≠ .startStamp) : p.numbered := by
  unfold Pse.numbered
  rw [h]
  exact ⟨by simp, by simpa using hs⟩

theorem Pse.working_of_stage {p : Pse} {stage : PassStage} (h : p.pass = some stage) (hs : stage ≠ .startStamp)
    (hp : stage ≠ .publicationWrite) : p.working :=
  ⟨Pse.numbered_of_stage h hs, by rw [h]; simpa using hp⟩

section
variable {s t u : State} {c : Configuration}

/-! ### The work of a pass -/

/-- A pass in work goes on to a stage past its number. -/
structure State.WorksOn (s u : State) : Prop where
  number : u.pse.passNumber = s.pse.passNumber
  timer : u.pse.timer = s.pse.timer
  pass : u.pse.numbered

theorem State.completePoint_worksOn (i : Fin 256) (d : PointDef) (src : SourceResult) :
    s.WorksOn (s.completePoint c i d src) :=
  ⟨by simp [State.completePoint, State.writeEntry], by simp [State.completePoint, State.writeEntry],
    Pse.numbered_of_stage (p := (s.completePoint c i d src).pse) rfl nofun⟩

theorem State.convertPoint_worksOn (i : Fin 256) : s.WorksOn (s.convertPoint c i) := by
  unfold State.convertPoint
  split
  · exact ⟨rfl, rfl, Pse.numbered_of_stage (p := (s.writeEntry c i _ _).pse) rfl nofun⟩
  · split
    · split
      · exact ⟨rfl, rfl, Pse.numbered_of_stage (stage := .inputRead i) rfl nofun⟩
      · exact State.completePoint_worksOn _ _ _
    · exact State.completePoint_worksOn _ _ _

theorem State.inputRead_worksOn (i : Fin 256) (w : Word) : s.WorksOn (s.inputRead c i w) := by
  unfold State.inputRead
  split
  · split
    · exact State.completePoint_worksOn _ _ _
    · exact State.convertPoint_worksOn _
  · exact State.convertPoint_worksOn _

theorem State.fillingStep_worksOn (k : Fin 4) : s.WorksOn (s.fillingStep c k) :=
  ⟨rfl, rfl, Pse.numbered_of_stage (p := (s.fillingStep c k).pse) rfl nofun⟩

theorem State.completeStep_worksOn (k : Fin 4) : s.WorksOn (s.completeStep c k) :=
  ⟨rfl, rfl, Pse.numbered_of_stage (p := (s.completeStep c k).pse) rfl nofun⟩

theorem State.readHold_worksOn : s.WorksOn s.readHold :=
  ⟨rfl, rfl, Pse.numbered_of_stage (p := s.readHold.pse) rfl nofun⟩

theorem State.WorksOn.of_frame {v : State} (h : u.WorksOn v) (number : u.pse.passNumber = s.pse.passNumber)
    (timer : u.pse.timer = s.pse.timer) : s.WorksOn v :=
  ⟨h.number.trans number, h.timer.trans timer, h.pass⟩

theorem State.fillingWritten_worksOn (k : Fin 4) : s.WorksOn (s.fillingWritten c k) := by
  unfold State.fillingWritten
  split
  · exact State.fillingStep_worksOn _
  · exact State.convertPoint_worksOn _

theorem State.entryWritten_worksOn (i : Fin 256) (v qz : Word) : s.WorksOn (s.entryWritten c i v qz) := by
  unfold State.entryWritten
  dsimp only
  split
  · exact (State.convertPoint_worksOn _).of_frame rfl rfl
  · exact ⟨rfl, rfl, Pse.numbered_of_stage (stage := .endStamp) rfl nofun⟩

theorem State.completeWritten_worksOn (k : Fin 4) : s.WorksOn (s.completeWritten c k) := by
  unfold State.completeWritten
  split
  · exact State.completeStep_worksOn _
  · exact ⟨rfl, rfl, Pse.numbered_of_stage (stage := .publicationWrite) rfl nofun⟩

theorem Pse.resolve_frame (p : Pse) (w : Word) :
    (p.resolve w).passNumber = p.passNumber ∧ (p.resolve w).timer = p.timer := by
  unfold Pse.resolve
  split
  · exact ⟨rfl, rfl⟩
  · split <;> exact ⟨rfl, rfl⟩

theorem State.unconfirmedRead_worksOn (w : Word) : s.WorksOn (s.unconfirmedRead w) :=
  State.readHold_worksOn.of_frame (s.pse.resolve_frame w).1 (s.pse.resolve_frame w).2

/-- The start stamp is even: the pass takes the next number (R101). -/
theorem State.numberPass_pass (stamp : Word) :
    (s.numberPass stamp).pse.passNumber = s.pse.passNumber + 1 ∧ (s.numberPass stamp).pse.timer = s.pse.timer
    ∧ (s.numberPass stamp).pse.working := by
  unfold State.numberPass
  dsimp only
  split
  · exact ⟨rfl, rfl, Pse.working_of_stage (stage := .unconfirmedRead) rfl nofun nofun⟩
  · exact ⟨rfl, rfl, Pse.working_of_stage (stage := .holdRead) rfl nofun nofun⟩

/-! ### The end of a pass -/

theorem State.endPass_passChange {v : State} (last : Bool) (e : Option Event)
    (was : s.pse.pass = some .startStamp ∨ s.pse.pass = some .publicationWrite)
    (number : v.pse.passNumber = s.pse.passNumber)
    (halts : s.pse.pass = some .publicationWrite → s.pse.passNumber = Word.max → last = true) :
    s.PassChange (v.endPass last e) := by
  have hpse := (v.endPass_spec last e).2
  have heng := (v.endPass_spec last e).1
  refine .ended was (by rw [hpse]; exact number) ?_ (State.endPass_pendingLaw _ _ _) fun hpass hmax => ?_
  · rw [hpse]
    dsimp only
    split
    · exact .inr rfl
    · exact .inl rfl
  · obtain rfl := halts hpass hmax
    rw [hpse, heng]
    simp

/-! ### The clients' work -/

theorem State.beginWork_passChange (h : Held) : s.PassChange (s.beginWork h) := by
  have := s.beginWork_begun h
  generalize s.beginWork h = u at this
  cases this with
  | configure c => exact .cleared rfl rfl id
  | counters words => exact .kept rfl rfl id id id
  | _ => exact .of_pse (by simp) (by simp)

theorem State.ClientWork.passChange {a : Access} {o : Owner} (h : s.ClientWork a o t) : s.PassChange t := by
  have onward {stage : PassStage} {v : State} (was : s.pse.pass = some stage) (hs : stage ≠ .startStamp)
      (hp : stage ≠ .publicationWrite) (works : v.WorksOn t) (hv : v.pse = s.pse) : s.PassChange t :=
    .onward (Pse.working_of_stage was hs hp) (works.number.trans (by rw [hv])) works.pass
  cases h with
  | attachWord w =>
    refine .of_pse (by simp) ?_
    unfold State.attachWordRead
    dsimp only
    split
    · exact id
    · split <;> exact nofun
  | startStamp w stage =>
    unfold State.startStampRead
    split
    · exact State.endPass_passChange _ _ (.inl stage) rfl fun h => by rw [stage] at h; cases h
    · exact .numbered stage (State.numberPass_pass w).1 (State.numberPass_pass w).2.2
  | unconfirmed w stage => exact onward stage nofun nofun (State.unconfirmedRead_worksOn w) rfl
  | hold w c stage => exact onward stage nofun nofun ((State.fillingStep_worksOn 0).of_frame (s := s) rfl rfl) rfl
  | filling c k stage => exact onward stage nofun nofun (State.fillingWritten_worksOn k) rfl
  | input w c i stage => exact onward stage nofun nofun (State.inputRead_worksOn i w) rfl
  | entryValue c i v qz stage =>
    exact onward (v := s) stage nofun nofun ⟨rfl, rfl, Pse.numbered_of_stage (stage := .entryQuality i v qz) rfl nofun⟩ rfl
  | entryQuality c i v qz stage => exact onward stage nofun nofun (State.entryWritten_worksOn i v qz) rfl
  | endStamp w c stage => exact onward stage nofun nofun ((State.completeStep_worksOn 0).of_frame (s := s) rfl rfl) rfl
  | complete c k stage => exact onward stage nofun nofun (State.completeWritten_worksOn k) rfl
  | publication stage =>
    exact State.endPass_passChange _ _ (.inr stage) rfl fun _ hmax => by simp [hmax]
  | stale heads slot k =>
    refine .of_pse (by simp) ?_
    unfold State.staleWritten
    split <;> simp
  | ticket h => exact (State.beginWork_passChange (s := { s.writeDone a with rqh := { s.rqh with scan := none } }) h).of_frame rfl rfl
  | finishing h code results k =>
    refine .of_pse (by simp) ?_
    unfold State.finishingWritten
    split <;> simp
  | abandon h word0 =>
    refine .of_pse (by simp) ?_
    unfold State.abandonWritten
    split <;> simp [State.completeFaultEntry]
  | configureStored => exact .of_pse (by simp) (by simp [State.configureStored])
  | _ => exact .of_pse (by simp) (by simp)

/-! ### The commands -/

theorem State.trigger_passChange (source : s.pse.timer ≠ none ∨ s.eng.engine = .running) : s.PassChange s.trigger := by
  by_cases hp : s.pse.pass = none
  · refine .began source hp ?_ ?_ <;> simp [State.trigger, hp, State.beginPass]
  · have hsame : s.trigger.pse.passNumber = s.pse.passNumber ∧ s.trigger.pse.pass = s.pse.pass
        ∧ s.trigger.pse.timer = s.pse.timer := by
      unfold State.trigger
      split
      next h => exact absurd (Option.isNone_iff_eq_none.1 h) hp
      · split <;> exact ⟨rfl, rfl, rfl⟩
    exact .kept hsame.1 hsame.2.1 (by rw [hsame.2.2]; exact id) (by simp) fun _ => s.trigger_pendingLaw

/-- A property that every change of the pass gives, and that BIP and the window do not enter, is kept by a step whose failures
keep it. -/
theorem State.Takes.pass_induction {P : State → Prop} (h : s.Takes t) (main : ∀ u, s.PassChange u → P u)
    (bus : ∀ u b m n, P u → P { u with bip := b, window := m, freeIndex := n })
    (fail : ∀ u kind a, P u → P (u.accessFailed kind a)) : P t := by
  have settles {u : State} (hu : P u) : P u.settle :=
    State.settle_keeps hu (fun v b hv => bus v b v.window v.freeIndex hv) fail
  cases h with
  | nothing => exact main s (.of_pse rfl id)
  | powerOn => exact main _ (.cleared rfl rfl fun _ => nofun)
  | engineReset => exact main _ (.cleared rfl rfl fun _ => nofun)
  | detach => exact main _ (.cleared rfl rfl fun _ => nofun)
  | attach => exact settles (main _ (.of_pse rfl nofun))
  | run c engine config number => exact main _ (.run rfl number rfl id)
  | stop => exact main _ (.kept rfl rfl (by simp) (by dsimp only; split <;> exact nofun) fun _ => nofun)
  | clear => exact main _ (.of_pse rfl nofun)
  | wbase w => exact main _ (.of_pse rfl id)
  | flags => exact main _ (.of_pse rfl id)
  | attend => exact settles (main _ (.of_pse (by simp) (by simp)))
  | trigger source =>
    exact settles (main _ (State.trigger_passChange (source.imp_right And.left)))
  | heldAgain => exact main _ (.of_pse rfl id)
  | applied => exact State.settleTogether_keeps (main _ (.of_pse (by simp) (by simp))) bus fail
  | answered a o u awaited work => exact settles (main _ work.passChange)
  | failed a kind => exact settles (fail _ _ _ (main _ (.of_pse (by simp) (by simp))))
  | disregarded a u inFlight mark ended =>
    rcases ended with rfl | rfl <;> exact settles (main _ (.of_pse (by simp) (by simp)))

/-! ### The laws of the pass -/

theorem State.PassChange.pendingLaw (h : s.PassChange u) (hs : s.pse.pendingLaw) : u.pse.pendingLaw := by
  have inPass {p : Pse} (hp : p.pass ≠ none) : p.pendingLaw := fun _ => Option.isSome_iff_ne_none.2 hp
  cases h with
  | kept _ _ _ _ trigger => exact trigger hs
  | cleared _ _ trigger => exact trigger hs
  | run _ _ _ trigger => exact trigger hs
  | began _ _ _ pass => exact inPass (by rw [pass]; simp)
  | numbered _ _ pass => exact inPass pass.1.1
  | onward _ _ pass => exact inPass pass.1
  | ended _ _ _ trigger => exact trigger

theorem State.PassChange.numberLaw (h : s.PassChange u) (hs : s.numberLaw) : u.numberLaw := by
  obtain ⟨begun, idle⟩ := hs
  cases h with
  | kept number pass timer engine =>
    refine ⟨fun hp => ?_, fun hp hrun => ?_⟩
    · rw [number]; exact begun (pass ▸ hp)
    · rw [number]; exact idle (pass ▸ hp) (hrun.imp engine timer)
  | cleared number => exact ⟨fun _ => by rw [number]; simp, fun _ _ => by rw [number]; simp⟩
  | run number notLast => exact ⟨fun _ => number ▸ notLast, fun _ _ => number ▸ notLast⟩
  | began source was number pass =>
    exact ⟨fun _ => number ▸ idle was source.symm, fun hp => by rw [pass] at hp; cases hp⟩
  | numbered _ _ pass => exact ⟨fun hp => absurd hp pass.1.2, fun hp => absurd hp pass.1.1⟩
  | onward _ _ pass => exact ⟨fun hp => absurd hp pass.2, fun hp => absurd hp pass.1⟩
  | ended was number pass _ last =>
    by_cases hmax : s.pse.passNumber = Word.max
    · rcases was with was | was
      · exact absurd hmax (begun was)
      · obtain ⟨hpass, htimer, hengine⟩ := last was hmax
        refine ⟨fun hp => (by rw [hpass] at hp; cases hp), fun _ hrun => ?_⟩
        rcases hrun with hrun | hrun
        · exact absurd hrun hengine
        · exact absurd htimer hrun
    · exact ⟨fun _ => number ▸ hmax, fun _ _ => number ▸ hmax⟩

/-- Every later number is above `n`, or the numbers begin again with no bank published. -/
def Pse.laterAbove (p : Pse) (n : Word) : Prop := p.numbersAbove n ∨ (p.passNumber = 0 ∧ p.bankOrder = [])

/-- A pass that awaits its publication goes on awaiting it, or every later number is above its own. -/
def Pse.publishing (p : Pse) (n : Word) : Prop := (p.pass = some .publicationWrite ∧ p.passNumber = n) ∨ p.laterAbove n

theorem Pse.numbersAbove_of_not_numbered {p : Pse} {n : Word} (hn : n.toNat ≤ p.passNumber.toNat) (h : ¬p.numbered) :
    p.numbersAbove n := ⟨hn, fun hp => absurd hp h⟩

theorem Pse.not_numbered_of_pass {p : Pse} (h : p.pass = none ∨ p.pass = some .startStamp) : ¬p.numbered := by
  rintro ⟨hnone, hstart⟩
  exact h.elim hnone hstart

theorem State.PassChange.laterAbove (h : s.PassChange u) (hs : s.numberLaw) {n : Word} (hn : s.pse.numbersAbove n) :
    u.pse.laterAbove n := by
  obtain ⟨hle, hlt⟩ := hn
  cases h with
  | kept number pass => exact .inl ⟨number ▸ hle, fun hp => number ▸ hlt (by unfold Pse.numbered at hp ⊢; rwa [pass] at hp)⟩
  | cleared number order => exact .inr ⟨number, order⟩
  | run number _ pass => exact .inl ⟨number ▸ hle, fun hp => number ▸ hlt (by unfold Pse.numbered at hp ⊢; rwa [pass] at hp)⟩
  | began _ _ number pass => exact .inl (Pse.numbersAbove_of_not_numbered (number ▸ hle) (Pse.not_numbered_of_pass (.inr pass)))
  | numbered was number =>
    have hmax := hs.1 was
    have hsucc : (s.pse.passNumber + 1).toNat = s.pse.passNumber.toNat + 1 := by bv_omega
    have : n.toNat < u.pse.passNumber.toNat := by rw [number, hsucc]; omega
    exact .inl ⟨this.le, fun _ => this⟩
  | onward was number => exact .inl ⟨number ▸ hle, fun _ => number ▸ hlt was.1⟩
  | ended _ number pass => exact .inl (Pse.numbersAbove_of_not_numbered (number ▸ hle) (Pse.not_numbered_of_pass pass))

/-- A pass at its publication goes on awaiting it, or every later number is above its own. -/
theorem State.PassChange.published (h : s.PassChange u) (hs : s.pse.pass = some .publicationWrite) :
    u.pse.publishing s.pse.passNumber := by
  cases h with
  | kept number pass => exact .inl ⟨pass.trans hs, number⟩
  | cleared number order => exact .inr (.inr ⟨number, order⟩)
  | run number _ pass => exact .inl ⟨pass.trans hs, number⟩
  | began _ was => rw [hs] at was; cases was
  | numbered was => rw [hs] at was; cases was
  | onward was => exact absurd hs was.2
  | ended _ number pass =>
    exact .inr (.inl (Pse.numbersAbove_of_not_numbered (by rw [number]) (Pse.not_numbered_of_pass pass)))

/-! ### Failures -/

/-- The failure of an access leaves PSE, and the engine does not begin to run; or it faults the engine and abandons the pass. -/
theorem State.accessFailed_pass (s : State) (kind : FaultKind) (a : Access) :
    ((s.accessFailed kind a).pse = s.pse ∧ ((s.accessFailed kind a).eng.engine = .running → s.eng.engine = .running))
    ∨ ((s.accessFailed kind a).pse = s.pse.abandon ∧ (s.accessFailed kind a).eng.engine = .faulted) := by
  have fault (c : Client) (o : Nat) :
      (s.enterFault kind c o).pse = s.pse.abandon ∧ (s.enterFault kind c o).eng.engine = .faulted := by
    obtain ⟨hpse, -, -, hengine, -⟩ := s.enterFault_blocks kind c o
    exact ⟨hpse, hengine⟩
  unfold State.accessFailed
  split
  · exact .inl ⟨by simp, nofun⟩
  · exact .inr (fault _ _)
  · exact .inr (fault _ _)
  · split
    · exact .inr (fault _ _)
    · split
      · exact .inl (by simp)
      · exact .inl (by simp [State.secondFault, State.completeFaultEntry])
      all_goals exact .inr (fault _ _)

/-- A property of PSE that an abandoned pass keeps is kept by a failure. -/
theorem State.accessFailed_pse {P : Pse → Prop} (abandon : ∀ p, P p → P p.abandon) (s : State) (kind : FaultKind)
    (a : Access) (hs : P s.pse) : P (s.accessFailed kind a).pse := by
  rcases s.accessFailed_pass kind a with ⟨h, -⟩ | ⟨h, -⟩
  · exact h ▸ hs
  · exact h ▸ abandon _ hs

theorem Pse.abandon_laterAbove (p : Pse) {n : Word} (h : p.laterAbove n) : p.abandon.laterAbove n := by
  rcases h with ⟨hle, -⟩ | h
  · exact .inl (Pse.numbersAbove_of_not_numbered hle (Pse.not_numbered_of_pass (.inl rfl)))
  · exact .inr h

theorem State.accessFailed_numberLaw (kind : FaultKind) (a : Access) (hs : s.numberLaw) :
    (s.accessFailed kind a).numberLaw := by
  obtain ⟨begun, idle⟩ := hs
  rcases s.accessFailed_pass kind a with ⟨hpse, engine⟩ | ⟨hpse, engine⟩
  · unfold State.numberLaw
    rw [hpse]
    exact ⟨begun, fun hp hrun => idle hp (hrun.imp_left engine)⟩
  · unfold State.numberLaw
    rw [hpse, engine]
    exact ⟨nofun, fun _ hrun => hrun.elim nofun fun htimer => absurd rfl htimer⟩

theorem Pse.abandon_publishing (p : Pse) {n : Word} (h : p.publishing n) : p.abandon.publishing n := by
  rcases h with ⟨-, hn⟩ | h
  · exact .inr (.inl (Pse.numbersAbove_of_not_numbered (by rw [← hn]; exact Nat.le_refl _) (Pse.not_numbered_of_pass (.inl rfl))))
  · exact .inr (p.abandon_laterAbove h)

theorem Pse.abandon_pendingLaw (p : Pse) : p.abandon.pendingLaw := nofun

end

/-- Settles O52: each change of the window, of WBASE, of the pass and of its number keeps its law, and so do failures. -/
theorem windowWbaseAndTriggerLawsAreKept : Obligations.WindowWbaseAndTriggerLawsAreKept := by
  intro s t hstep
  rcases step_takes hstep with rfl | ⟨rest, h⟩
  · exact ⟨id, id, id, fun hs => ⟨hs, fun n hn => .inl hn, fun hp hq => absurd hp hq⟩⟩
  · have pse {P : Pse → Prop} (main : ∀ u : State, State.PassChange { s with pending := rest } u → P u.pse)
        (abandon : ∀ p, P p → P p.abandon) : P t.pse :=
      h.pass_induction (P := fun u => P u.pse) main (fun _ _ _ _ hu => hu)
        fun u kind a => State.accessFailed_pse abandon u kind a
    refine ⟨h.window.wf, h.wbaseLaw, fun hs => ?_, fun hs => ⟨?_, fun n hn => ?_, fun hp hq => ?_⟩⟩
    · exact pse (fun u hu => hu.pendingLaw hs) fun p _ => p.abandon_pendingLaw
    · exact h.pass_induction (fun u hu => hu.numberLaw hs) (fun _ _ _ _ hu => hu)
        fun u kind a => State.accessFailed_numberLaw kind a
    · exact pse (P := fun p => p.laterAbove n) (fun u hu => hu.laterAbove hs hn) fun p => p.abandon_laterAbove
    · have := pse (P := fun p => p.publishing s.pse.passNumber) (fun u hu => hu.published hp) fun p => p.abandon_publishing
      exact this.resolve_left fun hpub => hq hpub.1

end Sys2Proof.Machine

/-! The law of the strip's room (R134, R136). -/
namespace Sys2Proof.Machine

/-! ### The law on the recorder -/

/-- The recorder's part of the law of room. -/
def Evr.roomLaw (r : Evr) (config : Option Configuration) : Prop :=
  match config with
  | none => r.w = 0 ∧ r.a = 0 ∧ r.work = .idle ∧ r.queue = []
  | some c => (r.w - r.a).toNat ≤ c.stripCapacity
      ∧ ∀ seq e k behind, r.work = .writing seq e k behind → k ≠ 4 →
        seq = r.w + 1 ∧ (r.w - r.a).toNat < c.stripCapacity

theorem State.roomLaw_iff (s : State) :
    s.roomLaw ↔ s.evr.roomLaw s.eng.config ∧ ∀ c, s.rqh.configuring = some c → s.eng.config = none := by
  have first : (match s.eng.config with
      | none => s.evr.w = 0 ∧ s.evr.a = 0 ∧ s.evr.work = .idle ∧ s.evr.queue = []
      | some c => (s.evr.w - s.evr.a).toNat ≤ c.stripCapacity
          ∧ ∀ seq e k behind, s.evr.work = .writing seq e k behind → k ≠ 4 →
            seq = s.evr.w + 1 ∧ (s.evr.w - s.evr.a).toNat < c.stripCapacity) ↔ s.evr.roomLaw s.eng.config := by
    unfold Evr.roomLaw
    cases s.eng.config <;> exact Iff.rfl
  refine and_congr first ⟨fun h c hc => ?_, fun h x c had old hx hstage => h c (Rqh.configuring_of_stage hx hstage)⟩
  unfold Rqh.configuring at hc
  split at hc
  next hheld => exact h _ _ _ _ hheld rfl
  · cases hc

section
variable {r r' : Evr} {config : Option Configuration} {c : Configuration}

/-- A recorder with the same numbers whose work writes no record number is within the law. -/
theorem Evr.roomLaw_of_numbers (h : r.roomLaw (some c)) (w : r'.w = r.w) (a : r'.a = r.a)
    (work : ∀ seq e k behind, r'.work = .writing seq e k behind → k ≠ 4 → r.work = .writing seq e k behind) :
    r'.roomLaw (some c) := by
  refine ⟨by rw [w, a]; exact h.1, fun seq e k behind hwork hk => ?_⟩
  rw [w, a]
  exact h.2 seq e k behind (work seq e k behind hwork hk) hk

/-- A record begun with room (R134). -/
theorem Evr.roomLaw_of_begun (h : r.roomLaw (some c)) (room : r.hasRoom c.stripCapacity = true) (w : r'.w = r.w)
    (a : r'.a = r.a) {e : Event} {k : Fin 5} {behind : Option Event} (work : r'.work = .writing (r.w + 1) e k behind) :
    r'.roomLaw (some c) := by
  refine ⟨by rw [w, a]; exact h.1, fun seq e' k' behind' hwork _ => ?_⟩
  rw [work] at hwork
  cases hwork
  rw [w, a]
  exact ⟨rfl, by simpa [Evr.hasRoom] using room⟩

theorem Evr.drop_numbers (r : Evr) : r.drop.w = r.w ∧ r.drop.a = r.a ∧ r.drop.work = r.work := ⟨rfl, rfl, rfl⟩

theorem Evr.roomLaw.drop (h : r.roomLaw (some c)) : r.drop.roomLaw (some c) :=
  Evr.roomLaw_of_numbers h rfl rfl fun _ _ _ _ hwork _ => hwork

/-- An accepted acknowledge word lies within the capacity behind W, and a refused one changes nothing (R137). -/
theorem Evr.roomLaw.takeAck (h : r.roomLaw (some c)) (hw : ∀ seq e k behind, r.work ≠ .writing seq e k behind) (v : Word) :
    (r.takeAck c.stripCapacity v).roomLaw (some c) := by
  unfold Evr.takeAck
  split
  next hacc =>
    exact ⟨by simpa [Evr.accepts] using hacc, fun seq e k behind hwork => absurd hwork (hw seq e k behind)⟩
  · exact Evr.roomLaw_of_numbers h rfl rfl fun _ _ _ _ hwork _ => hwork

theorem Evr.takeAck_work (r : Evr) (capacity : Nat) (v : Word) :
    (r.takeAck capacity v).work = r.work ∧ (r.takeAck capacity v).w = r.w := by
  unfold Evr.takeAck
  split <;> exact ⟨rfl, rfl⟩

theorem Evr.endAtFault_numbers (r : Evr) : r.endAtFault.w = r.w ∧ r.endAtFault.a = r.a := by
  have : ∀ (es : List Event) (r : Evr), (es.foldl (fun r _ => r.drop) r).w = r.w ∧ (es.foldl (fun r _ => r.drop) r).a = r.a := by
    intro es
    induction es with
    | nil => exact fun r => ⟨rfl, rfl⟩
    | cons e es ih => exact fun r => ih r.drop
  exact this _ r

theorem Evr.roomLaw.endAtFault (h : r.roomLaw config) : r.endAtFault.roomLaw config := by
  obtain ⟨hw, ha⟩ := r.endAtFault_numbers
  cases config with
  | none => exact ⟨hw.trans h.1, ha.trans h.2.1, rfl, rfl⟩
  | some c => exact Evr.roomLaw_of_numbers h hw ha fun _ _ _ _ hwork _ => by cases hwork

/-- W takes the number of the record whose word 0 is written: there was room for one more (R134, R136). -/
theorem Evr.roomLaw.recordWritten (h : r.roomLaw (some c)) {seq : Word} {e : Event} {behind : Option Event}
    (work : r.work = .writing seq e 3 behind) :
    ((r.recordWritten seq e).w - (r.recordWritten seq e).a).toNat ≤ c.stripCapacity ∧ (r.recordWritten seq e).w = r.w + 1 := by
  obtain ⟨hseq, hroom⟩ := h.2 seq e 3 behind work (by decide)
  refine ⟨?_, hseq⟩
  show (seq - r.a).toNat ≤ c.stripCapacity
  rw [hseq, show r.w + 1 - r.a = (r.w - r.a) + 1 by ring]
  have := BitVec.toNat_add (r.w - r.a) 1
  have : ((r.w - r.a) + 1).toNat ≤ (r.w - r.a).toNat + 1 := by rw [this]; exact Nat.mod_le _ _
  omega

end

/-! ### Changes that keep the law and the number of the last record -/

/-- The configuration and W stand, the recorder keeps its law, and no CONFIGURE comes to its write. -/
structure State.Records (s t : State) : Prop where
  config : t.eng.config = s.eng.config
  w : t.evr.w = s.evr.w
  law : s.evr.roomLaw s.eng.config → t.evr.roomLaw s.eng.config
  configuring : ∀ c, t.rqh.configuring = some c → s.rqh.configuring = some c

namespace State.Records
variable {s t u : State}

theorem of_evr (config : t.eng.config = s.eng.config) (evr : t.evr = s.evr)
    (configuring : t.rqh.configuring = none ∨ t.rqh.configuring = s.rqh.configuring) : s.Records t := by
  refine ⟨config, by rw [evr], by rw [evr]; exact id, fun c hc => ?_⟩
  rcases configuring with h | h
  · rw [h] at hc; cases hc
  · rwa [h] at hc

theorem of_tables (h : s.SameTables t) (evr : t.evr = s.evr) : s.Records t :=
  of_evr h.config evr (.inr h.configuring)

theorem of_recorder (config : t.eng.config = s.eng.config) (w : t.evr.w = s.evr.w)
    (law : s.evr.roomLaw s.eng.config → t.evr.roomLaw s.eng.config) (rqh : t.rqh = s.rqh) : s.Records t :=
  ⟨config, w, law, fun c hc => by rwa [rqh] at hc⟩

theorem refl (s : State) : s.Records s := of_evr rfl rfl (.inr rfl)

theorem trans (h : s.Records t) (h' : t.Records u) : s.Records u :=
  ⟨h'.config.trans h.config, h'.w.trans h.w, fun hs => h.config ▸ h'.law (h.config.symm ▸ h.law hs),
    fun c hc => h.configuring c (h'.configuring c hc)⟩

/-- `trans` with the last change first. -/
theorem comp (h' : t.Records u) (h : s.Records t) : s.Records u := h.trans h'

end State.Records

section
variable {s t : State} {c : Configuration}

/-! ### Handing events -/

theorem State.startEvent_room (h : s.evr.roomLaw (some c)) (e : Event) :
    (s.startEvent c e).evr.roomLaw (some c) ∧ (s.startEvent c e).evr.w = s.evr.w := by
  have reading (l : Bool) : (s.readAck l e).evr.roomLaw (some c) :=
    Evr.roomLaw_of_numbers h rfl rfl fun _ _ _ _ hwork _ => by cases hwork
  unfold State.startEvent
  split
  · unfold State.startOwn
    split
    next room => exact ⟨Evr.roomLaw_of_begun h room rfl rfl rfl, rfl⟩
    · exact ⟨reading _, rfl⟩
  · split
    next room => exact ⟨Evr.roomLaw_of_begun h room rfl rfl rfl, rfl⟩
    · exact ⟨reading _, rfl⟩

theorem State.startOwn_room (h : s.evr.roomLaw (some c)) (e : Event) :
    (s.startOwn c e).evr.roomLaw (some c) ∧ (s.startOwn c e).evr.w = s.evr.w := by
  unfold State.startOwn
  split
  next room => exact ⟨Evr.roomLaw_of_begun h room rfl rfl rfl, rfl⟩
  · exact ⟨Evr.roomLaw_of_numbers h rfl rfl fun _ _ _ _ hwork _ => (by cases hwork), rfl⟩

theorem State.takeEvents_room (es : List Event) (s : State) (h : s.evr.roomLaw (some c)) :
    (State.takeEvents c es s).evr.roomLaw (some c) ∧ (State.takeEvents c es s).evr.w = s.evr.w := by
  induction es generalizing s with
  | nil => exact ⟨Evr.roomLaw_of_numbers h rfl rfl fun _ _ _ _ hwork _ => (by cases hwork), rfl⟩
  | cons e es ih =>
    unfold State.takeEvents
    split
    · exact ih _ h.drop
    · exact State.startEvent_room (s := { s with evr := { s.evr with queue := es } })
        (Evr.roomLaw_of_numbers h rfl rfl fun _ _ _ _ hwork _ => hwork) e

theorem State.nextEvent_room (hc : s.eng.config = some c) (h : s.evr.roomLaw (some c)) :
    s.nextEvent.evr.roomLaw (some c) ∧ s.nextEvent.evr.w = s.evr.w := by
  unfold State.nextEvent
  rw [hc]
  exact State.takeEvents_room _ _ h

theorem State.hand_room (hc : s.eng.config = some c) (h : s.evr.roomLaw (some c)) (e : Event) :
    (s.hand e).evr.roomLaw (some c) := by
  have joined : ({ s.evr with queue := s.evr.queue ++ [e] } : Evr).roomLaw (some c) :=
    Evr.roomLaw_of_numbers h rfl rfl fun _ _ _ _ hwork _ => hwork
  unfold State.hand
  rw [hc]
  dsimp only
  split
  · exact h.drop
  · split
    · exact (State.takeEvents_room _ ({ s with evr := { s.evr with queue := s.evr.queue ++ [e] } } : State) joined).1
    · exact joined
    · exact joined

theorem State.startEvent_w (s : State) (c : Configuration) (e : Event) : (s.startEvent c e).evr.w = s.evr.w := by
  unfold State.startEvent State.startOwn
  split
  · split <;> rfl
  · split <;> rfl

theorem State.takeEvents_w (es : List Event) (s : State) (c : Configuration) :
    (State.takeEvents c es s).evr.w = s.evr.w := by
  induction es generalizing s with
  | nil => rfl
  | cons e es ih =>
    unfold State.takeEvents
    split
    · exact ih ({ s with evr := s.evr.drop } : State)
    · exact State.startEvent_w _ _ _

theorem State.hand_w (s : State) (e : Event) : (s.hand e).evr.w = s.evr.w := by
  unfold State.hand
  split
  · rfl
  · split
    · rfl
    · dsimp only
      split
      · exact State.takeEvents_w _ _ _
      · rfl
      · rfl

theorem State.hand_records (s : State) (e : Event) : s.Records (s.hand e) := by
  refine .of_recorder (by simp) (s.hand_w e) (fun h => ?_) (by simp)
  cases hc : s.eng.config with
  | none =>
    rw [State.hand_of_no_config hc]
    exact hc ▸ h
  | some c =>
    rw [hc] at h
    exact State.hand_room hc h e

theorem State.handAll_records (es : List Event) (s : State) : s.Records (s.handAll es) := by
  induction es generalizing s with
  | nil => exact .refl s
  | cons e es ih => exact (s.hand_records e).trans (ih _)

theorem State.handTogether_records (s : State) (e : Option Event) (es : List Event) : s.Records (s.handTogether e es) := by
  unfold State.handTogether
  split
  · exact State.handAll_records _ _
  · exact State.hand_records _ _
  · exact State.Records.trans (t := { s with freeIndex := s.freeIndex + 1 }) (.of_evr rfl rfl (.inr rfl))
      (State.handAll_records _ _)

/-! ### Records -/

theorem State.nextEvent_w (s : State) : s.nextEvent.evr.w = s.evr.w := by
  unfold State.nextEvent
  split
  · rfl
  · exact State.takeEvents_w _ _ _

theorem State.ackWordRead_w (s : State) (c : Configuration) (lostFirst : Bool) (e : Event) (v : Word) :
    (s.ackWordRead c lostFirst e v).evr.w = s.evr.w := by
  have hw := (s.evr.takeAck_work c.stripCapacity v).2
  unfold State.ackWordRead
  dsimp only
  split
  · split <;> exact hw
  · exact (State.nextEvent_w _).trans hw

/-- Room is judged again with the acknowledge word (R137, R139). -/
theorem State.ackWordRead_room (hc : s.eng.config = some c) (h : s.evr.roomLaw (some c)) {lostFirst : Bool} {e : Event}
    (hwork : ∀ seq e k behind, s.evr.work ≠ .writing seq e k behind) {v : Word} :
    (s.ackWordRead c lostFirst e v).evr.roomLaw (some c) := by
  have acked := h.takeAck hwork v
  unfold State.ackWordRead
  dsimp only
  split
  next room => split <;> exact Evr.roomLaw_of_begun acked room rfl rfl rfl
  · exact (State.nextEvent_room (s := { s with evr := (s.evr.takeAck c.stripCapacity v).drop }) hc acked.drop).1

theorem State.recordFinished_w (s : State) (c : Configuration) (behind : Option Event) :
    (s.recordFinished c behind).evr.w = s.evr.w := by
  unfold State.recordFinished
  dsimp only
  split
  · exact State.nextEvent_w _
  · split
    · exact State.nextEvent_w _
    · unfold State.startOwn
      split <;> rfl

theorem State.recordFinished_room (hc : s.eng.config = some c) (h : s.evr.roomLaw (some c)) {behind : Option Event} :
    (s.recordFinished c behind).evr.roomLaw (some c) := by
  have idle : ({ s.evr with work := .idle } : Evr).roomLaw (some c) :=
    Evr.roomLaw_of_numbers h rfl rfl fun _ _ _ _ hwork _ => by cases hwork
  have finished (r : Evr) (hr : r.roomLaw (some c)) :
      ({ ({ s with evr := { s.evr with work := .idle } } : State).raise .event with evr := r } : State).nextEvent.evr.roomLaw
        (some c) :=
    (State.nextEvent_room (s := { ({ s with evr := { s.evr with work := .idle } } : State).raise .event with evr := r }) hc hr).1
  unfold State.recordFinished
  dsimp only
  split
  · exact finished _ idle
  · split
    · exact finished _ idle.drop
    · exact (State.startOwn_room (s := ({ s with evr := { s.evr with work := .idle } } : State).raise .event) idle _).1

/-! ### The work of a pass -/

theorem State.completePoint_records (i : Fin 256) (d : PointDef) (src : SourceResult) :
    s.Records (s.completePoint c i d src) := by
  have tables (u : State) (es : List Event) (v qz : Word) (h : s.Records u) : s.Records ((u.handAll es).writeEntry c i v qz) :=
    h.trans ((State.handAll_records es u).trans (.of_evr (by simp) (by simp) (.inr (by simp))))
  exact tables _ _ _ _ (.of_evr rfl rfl (.inr rfl))

theorem State.convertPoint_records (i : Fin 256) : s.Records (s.convertPoint c i) := by
  unfold State.convertPoint
  split
  · exact .of_evr (by simp) (by simp) (.inr (by simp))
  · split
    · split
      · exact .of_evr (by simp) (by simp) (.inr (by simp))
      · exact State.completePoint_records _ _ _
    · exact State.completePoint_records _ _ _

theorem State.inputRead_records (i : Fin 256) (w : Word) : s.Records (s.inputRead c i w) := by
  unfold State.inputRead
  split
  · split
    · exact State.completePoint_records _ _ _
    · exact State.convertPoint_records _
  · exact State.convertPoint_records _

theorem State.fillingWritten_records (k : Fin 4) : s.Records (s.fillingWritten c k) := by
  unfold State.fillingWritten
  split
  · exact .of_evr (by simp) (by simp) (.inr (by simp))
  · exact State.convertPoint_records _

theorem State.entryWritten_records (i : Fin 256) (v qz : Word) : s.Records (s.entryWritten c i v qz) := by
  unfold State.entryWritten
  dsimp only
  split
  · exact State.Records.trans (t := { s with pse := s.pse.foldEntry s.ptb.points[i].definition.isSome v qz })
      (.of_evr rfl rfl (.inr rfl)) (State.convertPoint_records _)
  · exact .of_evr rfl rfl (.inr rfl)

/-! ### Requests and the end of a pass -/

theorem State.finishStep_records (h : Held) (code : ResultCode) (results : Vector Word 6) (k : Fin 8) :
    s.Records (s.finishStep h code results k) := .of_evr rfl rfl (.inl rfl)

theorem State.takeEdit_records (h : Held) (e : Edit) : s.Records (s.takeEdit h e).1 :=
  .of_evr (by simp) (by simp) (.inl rfl)

theorem State.applyNow_records (h : Held) (e : Edit) : s.Records (s.applyNow h e) :=
  (State.takeEdit_records h e).trans (State.handAll_records _ _)

theorem State.reachApply_records (h : Held) (e : Edit) : s.Records (s.reachApply h e) := by
  unfold State.reachApply
  split
  · exact .of_evr rfl rfl (.inl rfl)
  · exact State.applyNow_records h e

theorem State.boundaryApply_records (now : Bool) : s.Records (s.boundaryApply now).1 := by
  unfold State.boundaryApply
  split
  · exact .refl s
  · split
    · split
      · exact State.takeEdit_records _ _
      · exact .of_evr rfl rfl (.inl rfl)
    all_goals exact .refl s

theorem State.endPass_records (s : State) (last : Bool) (e : Option Event) : s.Records (s.endPass last e) := by
  have scanned : s.Records ({ s with pse := { s.pse with pass := none } } : State).scanOccasion :=
    .trans (t := { s with pse := { s.pse with pass := none } }) (.of_evr rfl rfl (.inr rfl))
      (.of_tables (State.scanOccasion_sameTables _) (by simp))
  have after (u : State) (now halt : Bool) (h : s.Records u) :
      s.Records (((u.boundaryApply now).1.handTogether e (u.boundaryApply now).2).afterPass halt) :=
    h.trans ((State.boundaryApply_records now).trans ((State.handTogether_records _ _ _).trans
      (.of_tables (State.afterPass_sameTables _ _) (by simp))))
  exact after _ _ _ scanned

theorem State.imageWordRead_records (h : Held) (b : Building) (w : Word) : s.Records (s.imageWordRead h b w) := by
  unfold State.imageWordRead
  dsimp only
  split
  · exact .of_evr rfl rfl (.inr rfl)
  · split
    · exact .of_evr rfl rfl (.inl rfl)
    · exact (State.reachApply_records _ _).comp (.of_evr rfl rfl (.inr rfl))

/-! ### Every command -/

/-- The law of room after a change, and what the change did to the number of the last record. -/
def State.roomAfter (s t : State) : Prop := t.roomLaw ∧ (t.evr.w = s.evr.w ∨ t.evr.w = s.evr.w + 1 ∨ t.evr.w = 0)

theorem State.Records.roomAfter {u : State} (h : s.Records u) (hs : s.roomLaw) : s.roomAfter u := by
  rw [State.roomLaw_iff] at hs
  refine ⟨(State.roomLaw_iff u).2 ⟨h.config.symm ▸ h.law hs.1, fun c hc => ?_⟩, .inl h.w⟩
  rw [h.config]
  exact hs.2 c (h.configuring c hc)

/-- What comes after a change and keeps W keeps what was shown of it. -/
theorem State.Records.after {u : State} (h : t.Records u) (hs : s.roomAfter t) : s.roomAfter u :=
  ⟨(h.roomAfter hs.1).1, by rw [h.w]; exact hs.2⟩

theorem State.roomAfter_of_cleared {u : State} (config : u.eng.config = none)
    (evr : u.evr.w = 0 ∧ u.evr.a = 0 ∧ u.evr.work = .idle ∧ u.evr.queue = []) : s.roomAfter u :=
  ⟨(State.roomLaw_iff u).2 ⟨by rw [config]; exact evr, fun _ _ => config⟩, .inr (.inr evr.1)⟩

theorem State.beginWork_roomAfter (h : Held) (hs : s.roomLaw) : s.roomAfter (s.beginWork h) := by
  have := s.beginWork_begun h
  generalize s.beginWork h = u at this
  cases this with
  | finish => exact (State.finishStep_records _ _ _ _).roomAfter hs
  | configure c => exact State.roomAfter_of_cleared rfl ⟨rfl, rfl, rfl, rfl⟩
  | load => exact State.Records.roomAfter (.of_evr rfl rfl (.inl rfl)) hs
  | reach e => exact (State.reachApply_records h e).roomAfter hs
  | counters words =>
    refine State.Records.roomAfter ⟨rfl, rfl, fun hl => ?_, nofun⟩ hs
    cases hc : s.eng.config with
    | none => exact hc ▸ hl
    | some c =>
      rw [hc] at hl
      exact Evr.roomLaw_of_numbers hl rfl rfl fun _ _ _ _ hwork _ => hwork

theorem State.ClientWork.roomAfter {a : Access} {o : Owner} (h : s.ClientWork a o t) (hs : s.roomLaw) : s.roomAfter t := by
  have read (w : Word) : s.Records (s.readDone a w) := .of_evr rfl rfl (.inr rfl)
  have write : s.Records (s.writeDone a) := .of_evr rfl rfl (.inr rfl)
  cases h with
  | attachWord w => exact ((read w).trans (.of_tables (State.attachWordRead_sameTables w) (by simp))).roomAfter hs
  | startStamp w =>
    refine ((read w).trans ?_).roomAfter hs
    unfold State.startStampRead
    split
    · exact State.Records.trans (t := { s.readDone a w with pse := { s.pse with skipped := s.pse.skipped + 1, skipFlag := true } })
        (.of_evr rfl rfl (.inr rfl)) (State.endPass_records _ _ _)
    · exact .of_evr (by simp) (by simp) (.inr (by simp))
  | unconfirmed w => exact ((read w).trans (.of_evr (by simp) (by simp) (.inr (by simp)))).roomAfter hs
  | hold w c => exact ((read w).trans (.of_evr (by simp) (by simp) (.inr (by simp)))).roomAfter hs
  | filling c k => exact (write.trans (State.fillingWritten_records k)).roomAfter hs
  | input w c i => exact ((read w).trans (State.inputRead_records i w)).roomAfter hs
  | entryValue c i v qz => exact (write.trans (.of_evr (by simp) (by simp) (.inr (by simp)))).roomAfter hs
  | entryQuality c i v qz => exact (write.trans (State.entryWritten_records i v qz)).roomAfter hs
  | endStamp w c => exact ((read w).trans (.of_evr (by simp) (by simp) (.inr (by simp)))).roomAfter hs
  | complete c k => exact (write.trans (.of_evr (by simp) (by simp) (.inr (by simp)))).roomAfter hs
  | publication =>
    exact (write.trans (State.Records.trans (t := ({ s.writeDone a with pse := s.pse.afterPublication } : State).raise .passDone)
      (.of_evr rfl rfl (.inr rfl)) (State.endPass_records _ _ _))).roomAfter hs
  | configureStored h c had old held stage =>
    rw [State.roomLaw_iff] at hs
    have hnone := hs.2 c (Rqh.configuring_of_stage held stage)
    have hevr := hs.1
    rw [hnone] at hevr
    obtain ⟨hw, ha, hwork, -⟩ := hevr
    refine ⟨(State.roomLaw_iff _).2 ⟨⟨?_, fun seq e k behind hwriting => ?_⟩, nofun⟩, .inl rfl⟩
    · show (s.evr.w - s.evr.a).toNat ≤ c.stripCapacity
      simp [hw, ha]
    · have hwriting : s.evr.work = .writing seq e k behind := hwriting
      rw [hwork] at hwriting
      cases hwriting
  | slotRead w k heads scan =>
    exact ((read w).trans (.of_tables (State.slotRead_sameTables _ k heads w (by simp [scan])) (by simp))).roomAfter hs
  | stale heads slot k scan =>
    exact (write.trans (.of_tables (State.staleWritten_sameTables _ heads slot k (by simp [scan])) (by simp))).roomAfter hs
  | parameter w slot head k params scan =>
    exact ((read w).trans (.of_tables (State.parameterRead_sameTables _ slot head k params w (by simp [scan])) (by simp))).roomAfter hs
  | taken slot head params =>
    exact State.Records.roomAfter (.of_evr (by simp) (by simp) (.inl rfl)) hs
  | ticket h =>
    have hs' : ({ s.writeDone a with rqh := { s.rqh with scan := none } } : State).roomLaw := hs
    exact State.beginWork_roomAfter h hs'
  | image w h b => exact ((read w).trans (State.imageWordRead_records h b w)).roomAfter hs
  | finishing h code results k =>
    refine (write.trans ?_).roomAfter hs
    unfold State.finishingWritten
    split
    · exact State.finishStep_records _ _ _ _
    · exact State.Records.comp (.of_tables (State.scanOccasion_sameTables _) (by simp)) (.of_evr rfl rfl (.inl rfl))
  | abandon h word0 =>
    refine (write.trans ?_).roomAfter hs
    unfold State.abandonWritten
    split <;> exact .of_evr rfl rfl (.inl rfl)
  | ackWord w c lostFirst e work config =>
    refine ((read w).trans (.of_recorder (by simp) ?_ (fun hl => ?_) (by simp))).roomAfter hs
    · exact State.ackWordRead_w _ _ _ _ _
    · rw [show (s.readDone a w).eng.config = some c from config] at hl ⊢
      exact State.ackWordRead_room (s := s.readDone a w) config hl (by rw [show (s.readDone a w).evr.work = _ from work]; exact nofun)
  | recordWord c seq e k behind work config before =>
    refine State.Records.roomAfter ⟨rfl, rfl, fun hl => ?_, fun _ => id⟩ hs
    rw [config] at hl ⊢
    obtain ⟨hseq, hroom⟩ := hl.2 seq e k behind work (by rintro rfl; exact absurd before (by decide))
    refine ⟨hl.1, fun seq' e' k' behind' hwork _ => ?_⟩
    cases hwork
    exact ⟨hseq, hroom⟩
  | recordNumber c seq e behind work config =>
    rw [State.roomLaw_iff] at hs
    obtain ⟨hlaw, hconfiguring⟩ := hs
    rw [config] at hlaw
    obtain ⟨hroom, hw⟩ := hlaw.recordWritten work
    refine ⟨(State.roomLaw_iff _).2 ⟨?_, hconfiguring⟩, .inr (.inl hw)⟩
    show Evr.roomLaw _ s.eng.config
    rw [config]
    exact ⟨hroom, fun seq' e' k' behind' hwork hk => absurd (by cases hwork; rfl) hk⟩
  | highWater c seq e behind work config =>
    refine (write.trans (.of_recorder (by simp) (State.recordFinished_w _ _ _) (fun hl => ?_) (by simp))).roomAfter hs
    rw [show (s.writeDone a).eng.config = some c from config] at hl ⊢
    exact State.recordFinished_room (s := s.writeDone a) config hl

/-! ### Failures -/

theorem State.abandonHeld_records (s : State) : s.Records s.abandonHeld :=
  .of_evr (State.abandonHeld_config s) (by simp)
    (.inl (Rqh.carries_none (State.abandonHeld_plain s)).2)

theorem State.enterFault_records (s : State) (kind : FaultKind) (x : Client) (o : Nat) : s.Records (s.enterFault kind x o) :=
  (State.abandonHeld_records _).comp (.of_recorder rfl s.evr.endAtFault_numbers.1 (fun h => h.endAtFault) rfl)

theorem State.accessFailed_records (s : State) (kind : FaultKind) (a : Access) : s.Records (s.accessFailed kind a) := by
  unfold State.accessFailed
  split
  · exact .of_evr rfl rfl (.inr rfl)
  · exact State.enterFault_records _ _ _ _
  · exact State.enterFault_records _ _ _ _
  · split
    · exact State.enterFault_records _ _ _ _
    · split
      · exact .of_evr rfl rfl (.inl rfl)
      · exact .of_evr rfl rfl (.inl rfl)
      all_goals exact State.enterFault_records _ _ _ _

theorem State.Takes.roomAfter (h : s.Takes t) (hs : s.roomLaw) : s.roomAfter t := by
  have settles {u : State} (hu : s.roomAfter u) : s.roomAfter u.settle :=
    State.settle_keeps (P := s.roomAfter) hu (fun _ _ hv => hv) fun v kind a hv => (v.accessFailed_records kind a).after hv
  have kept {u : State} (config : u.eng.config = s.eng.config) (evr : u.evr = s.evr)
      (configuring : u.rqh.configuring = none ∨ u.rqh.configuring = s.rqh.configuring) : s.roomAfter u :=
    (State.Records.of_evr config evr configuring).roomAfter hs
  cases h with
  | nothing => exact kept rfl rfl (.inr rfl)
  | powerOn => exact State.roomAfter_of_cleared rfl ⟨rfl, rfl, rfl, rfl⟩
  | engineReset => exact State.roomAfter_of_cleared rfl ⟨rfl, rfl, rfl, rfl⟩
  | detach => exact State.roomAfter_of_cleared rfl ⟨rfl, rfl, rfl, rfl⟩
  | attach => exact settles (kept rfl rfl (.inr rfl))
  | run => exact kept rfl rfl (.inr rfl)
  | stop => exact kept rfl rfl (.inr rfl)
  | clear => exact kept rfl rfl (.inr rfl)
  | wbase => exact kept rfl rfl (.inr rfl)
  | flags => exact kept rfl rfl (.inr rfl)
  | attend => exact settles ((State.Records.of_tables s.scanOccasion_sameTables (by simp)).roomAfter hs)
  | trigger => exact settles (kept (by simp) (by simp) (.inr (by simp)))
  | heldAgain => exact kept rfl rfl (.inl rfl)
  | applied h e =>
    exact State.settleTogether_keeps (P := s.roomAfter) ((State.applyNow_records h e).roomAfter hs) (fun _ _ _ _ hv => hv)
      fun v kind a hv => (v.accessFailed_records kind a).after hv
  | answered a o u awaited work => exact settles (work.roomAfter hs)
  | failed a kind =>
    exact settles ((State.accessFailed_records _ _ _).after (kept (by simp) (by simp) (.inr (by simp))))
  | disregarded a u inFlight mark ended =>
    rcases ended with rfl | rfl <;> exact settles (kept (by simp) (by simp) (.inr (by simp)))

end

/-- Settles O57: each change of the recorder keeps the law of room. -/
theorem roomLawIsKept : Obligations.RoomLawIsKept := by
  intro s t hstep hs
  rcases step_takes hstep with rfl | ⟨rest, h⟩
  · exact ⟨hs, .inl rfl⟩
  · exact h.roomAfter hs

end Sys2Proof.Machine

/-! What each operation of the clients issues at BIP (R183): accesses of the control block by RQH, record accesses by EVR, and the
access of its stage by PSE. -/
namespace Sys2Proof.Machine

/-! ### The accesses -/

/-- An access of RQH to the slots or to the last taken ticket (R148 to R156). -/
def Access.ofRqh (a : Access) : Prop := a.owner = .client .rqh ∧ 40 ≤ a.offset ∧ a.offset + 4 ≤ 1088

/-- An access of EVR: the acknowledge word read, or a record write (R135, R137). -/
def Access.ofEvr (config : Option Configuration) (a : Access) : Prop :=
  a.owner = .client .evr
  ∧ ((a.offset = 20 ∧ a.op = .read)
    ∨ ∃ c seq e k w, config = some c ∧ a.offset = (recordWrite c seq e k).1 ∧ a.op = .write w)

/-- The access PSE's stage awaits (R99 to R104, R119, R121). -/
def Pse.awaits (p : Pse) (config : Option Configuration) (a : Access) : Prop :=
  match p.pass with
  | none => False
  | some .startStamp | some .endStamp => a.offset = 24 ∧ a.op = .read
  | some .holdRead => a.offset = 16 ∧ a.op = .read
  | some .unconfirmedRead => a.offset = 28 ∧ a.op = .read
  | some (.inputRead _) => ∃ c, config = some c ∧ a.op = .read
      ∧ c.inputOffset ≤ a.offset ∧ a.offset + 4 ≤ c.inputOffset + 4 * c.inputCount
  | some (.fillingHeader k) => ∃ c w, config = some c ∧ a.offset = c.bankWord p.workBank k.val ∧ a.op = .write w
  | some (.entryValue i _ _) => ∃ c w, config = some c ∧ a.offset = c.bankWord p.workBank (4 + 2 * i.val) ∧ a.op = .write w
  | some (.entryQuality i _ _) => ∃ c w, config = some c ∧ a.offset = c.bankWord p.workBank (5 + 2 * i.val) ∧ a.op = .write w
  | some (.completeHeader k) => ∃ c, config = some c ∧ a.offset = c.bankWord p.workBank (p.completeWrite k).1
      ∧ a.op = (p.completeWrite k).2
  | some .publicationWrite => a.offset = 28 ∧ a.op = .write (publicationWord p.workBank.val p.passNumber)

/-- An access of PSE that its stage awaits. -/
def Access.ofPse (p : Pse) (config : Option Configuration) (a : Access) : Prop :=
  a.owner = .client .pse ∧ p.awaits config a

/-! ### What joins the waiting accesses -/

/-- From `b` to `b'` nothing is granted or withdrawn; a client's waiting access stands or is a new one of the kind given. -/
structure Bip.Issued (R P E : Access → Prop) (b b' : Bip) : Prop where
  inFlight : b'.inFlight = b.inFlight
  disregard : b'.disregard = b.disregard
  base : b'.base = b.base
  waitEng : b'.waitEng = b.waitEng
  rqh : b'.waitRqh = b.waitRqh ∨ ∃ a, b'.waitRqh = some a ∧ R a
  pse : b'.waitPse = b.waitPse ∨ ∃ a, b'.waitPse = some a ∧ P a
  evr : b'.waitEvr = b.waitEvr ∨ ∃ a, b'.waitEvr = some a ∧ E a

/-- No access. -/
def Access.nothing (_ : Access) : Prop := False

namespace Bip.Issued
variable {R P E R' P' E' : Access → Prop} {b b' b'' : Bip}

theorem refl (b : Bip) : Bip.Issued R P E b b := ⟨rfl, rfl, rfl, rfl, .inl rfl, .inl rfl, .inl rfl⟩

theorem of_eq (h : b' = b) : Bip.Issued R P E b b' := by
  subst h
  exact refl b'

theorem trans (h : Bip.Issued R P E b b') (h' : Bip.Issued R P E b' b'') : Bip.Issued R P E b b'' := by
  have join {x y z : Option Access} {Q : Access → Prop} (h : y = x ∨ ∃ a, y = some a ∧ Q a)
      (h' : z = y ∨ ∃ a, z = some a ∧ Q a) : z = x ∨ ∃ a, z = some a ∧ Q a := by
    rcases h' with rfl | h'
    · exact h
    · exact .inr h'
  exact ⟨h'.inFlight.trans h.inFlight, h'.disregard.trans h.disregard, h'.base.trans h.base, h'.waitEng.trans h.waitEng,
    join h.rqh h'.rqh, join h.pse h'.pse, join h.evr h'.evr⟩

theorem mono (h : Bip.Issued R P E b b') (hR : ∀ a, R a → R' a) (hP : ∀ a, P a → P' a) (hE : ∀ a, E a → E' a) :
    Bip.Issued R' P' E' b b' :=
  ⟨h.inFlight, h.disregard, h.base, h.waitEng, h.rqh.imp_right fun ⟨a, ha, hq⟩ => ⟨a, ha, hR a hq⟩,
    h.pse.imp_right fun ⟨a, ha, hq⟩ => ⟨a, ha, hP a hq⟩, h.evr.imp_right fun ⟨a, ha, hq⟩ => ⟨a, ha, hE a hq⟩⟩

theorem of_rqh (o : Nat) (op : AccessOp) (h : R ⟨.client .rqh, o, op⟩) :
    Bip.Issued R P E b (b.setWaiting .rqh (some ⟨.client .rqh, o, op⟩)) :=
  ⟨rfl, rfl, rfl, rfl, .inr ⟨_, rfl, h⟩, .inl rfl, .inl rfl⟩

theorem of_pse (o : Nat) (op : AccessOp) (h : P ⟨.client .pse, o, op⟩) :
    Bip.Issued R P E b (b.setWaiting .pse (some ⟨.client .pse, o, op⟩)) :=
  ⟨rfl, rfl, rfl, rfl, .inl rfl, .inr ⟨_, rfl, h⟩, .inl rfl⟩

theorem of_evr (o : Nat) (op : AccessOp) (h : E ⟨.client .evr, o, op⟩) :
    Bip.Issued R P E b (b.setWaiting .evr (some ⟨.client .evr, o, op⟩)) :=
  ⟨rfl, rfl, rfl, rfl, .inl rfl, .inl rfl, .inr ⟨_, rfl, h⟩⟩

end Bip.Issued

/-- BIP between two states when RQH issues alone. -/
def State.RqhIssues (s t : State) : Prop := Bip.Issued Access.ofRqh Access.nothing Access.nothing s.bip t.bip

/-- BIP between two states when EVR issues alone. -/
def State.EvrIssues (s t : State) : Prop := Bip.Issued Access.nothing Access.nothing (Access.ofEvr s.eng.config) s.bip t.bip

/-- BIP between two states when RQH and EVR issue. -/
def State.RequestIssues (s t : State) : Prop := Bip.Issued Access.ofRqh Access.nothing (Access.ofEvr s.eng.config) s.bip t.bip

/-- A read of the image of the body under construction (R34). -/
def State.imageAccess (s : State) (a : Access) : Prop :=
  a.owner = .client .rqh ∧ a.op = .read ∧ ∃ h b, s.rqh.held = some h ∧ h.stage = .imageRead ∧ s.clb.building = some b
    ∧ a.offset + 4 ≤ b.offset + 4 * b.length

/-- BIP between two states when any client issues, PSE for the stage it comes to. -/
def State.Issues (s t : State) : Prop :=
  Bip.Issued (fun a => a.ofRqh ∨ t.imageAccess a) (Access.ofPse t.pse s.eng.config) (Access.ofEvr s.eng.config) s.bip t.bip

section
variable {s t u : State}

theorem State.RqhIssues.request (h : s.RqhIssues t) : s.RequestIssues t :=
  Bip.Issued.mono h (fun _ => id) (fun _ => id) fun _ => False.elim

theorem State.EvrIssues.request (h : s.EvrIssues t) : s.RequestIssues t :=
  Bip.Issued.mono h (fun _ => False.elim) (fun _ => id) (fun _ => id)

theorem State.RequestIssues.issues (h : s.RequestIssues t) : s.Issues t :=
  Bip.Issued.mono h (fun _ => .inl) (fun _ => False.elim) (fun _ => id)

theorem State.RqhIssues.issues (h : s.RqhIssues t) : s.Issues t := h.request.issues

theorem State.EvrIssues.issues (h : s.EvrIssues t) : s.Issues t := h.request.issues

/-- What a state issues after RQH and EVR have, PSE issuing last. -/
theorem State.RequestIssues.then (h : s.RequestIssues t) (h' : t.Issues u) (config : t.eng.config = s.eng.config) : s.Issues u := by
  unfold State.Issues at h' ⊢
  rw [config] at h'
  exact Bip.Issued.trans (Bip.Issued.mono h (fun _ => .inl) (fun _ => False.elim) (fun _ => id)) h'

theorem State.RequestIssues.trans (h : s.RequestIssues t) (h' : t.RequestIssues u) (config : t.eng.config = s.eng.config) :
    s.RequestIssues u := by
  unfold State.RequestIssues at h' ⊢
  rw [config] at h'
  exact Bip.Issued.trans h h'

theorem State.EvrIssues.trans (h : s.EvrIssues t) (h' : t.EvrIssues u) (config : t.eng.config = s.eng.config) :
    s.EvrIssues u := by
  unfold State.EvrIssues at h' ⊢
  rw [config] at h'
  exact Bip.Issued.trans h h'

/-- Before anything is issued. -/
theorem State.RequestIssues.of_bip (h : t.bip = s.bip) : s.RequestIssues t := .of_eq h

theorem State.EvrIssues.of_bip (h : t.bip = s.bip) : s.EvrIssues t := .of_eq h

/-! ### The recorder -/

theorem State.recordStep_issues (c : Configuration) (hc : s.eng.config = some c) (seq : Word) (e : Event) (k : Fin 5)
    (behind : Option Event) : s.EvrIssues (s.recordStep c seq e k behind) :=
  .of_evr _ _ ⟨rfl, .inr ⟨c, seq, e, k, _, hc, rfl, rfl⟩⟩

theorem State.readAck_issues (lostFirst : Bool) (e : Event) : s.EvrIssues (s.readAck lostFirst e) :=
  .of_evr _ _ ⟨rfl, .inl ⟨rfl, rfl⟩⟩

variable {c : Configuration}

theorem State.startOwn_issues (hc : s.eng.config = some c) (e : Event) : s.EvrIssues (s.startOwn c e) := by
  unfold State.startOwn
  split
  · exact State.recordStep_issues c hc _ _ _ _
  · exact State.readAck_issues _ _

theorem State.startEvent_issues (hc : s.eng.config = some c) (e : Event) : s.EvrIssues (s.startEvent c e) := by
  unfold State.startEvent
  split
  · exact State.startOwn_issues hc e
  · split
    · exact State.recordStep_issues c hc _ _ _ _
    · exact State.readAck_issues _ _

theorem State.takeEvents_issues (es : List Event) (s : State) (hc : s.eng.config = some c) :
    s.EvrIssues (State.takeEvents c es s) := by
  induction es generalizing s with
  | nil => exact .of_bip rfl
  | cons e es ih =>
    unfold State.takeEvents
    split
    · exact ih ({ s with evr := s.evr.drop } : State) hc
    · exact State.startEvent_issues (s := { s with evr := { s.evr with queue := es } }) hc e

theorem State.nextEvent_issues (s : State) : s.EvrIssues s.nextEvent := by
  unfold State.nextEvent
  split
  · exact .of_bip rfl
  next c hc => exact State.takeEvents_issues _ _ hc

theorem State.hand_issues (s : State) (e : Event) : s.EvrIssues (s.hand e) := by
  unfold State.hand
  split
  · exact .of_bip rfl
  next c hc =>
    split
    · exact .of_bip rfl
    · dsimp only
      split
      · exact State.takeEvents_issues _ ({ s with evr := { s.evr with queue := s.evr.queue ++ [e] } } : State) hc
      · exact .of_bip rfl
      · exact .of_bip rfl

theorem State.handAll_issues (es : List Event) (s : State) : s.EvrIssues (s.handAll es) := by
  induction es generalizing s with
  | nil => exact .of_bip rfl
  | cons e es ih => exact (s.hand_issues e).trans (ih _) (by simp)

theorem State.handTogether_issues (s : State) (e : Option Event) (es : List Event) : s.EvrIssues (s.handTogether e es) := by
  unfold State.handTogether
  split
  · exact State.handAll_issues _ _
  · exact State.hand_issues _ _
  · exact State.handAll_issues _ ({ s with freeIndex := s.freeIndex + 1 } : State)

theorem State.ackWordRead_issues (hc : s.eng.config = some c) (lostFirst : Bool) (e : Event) (v : Word) :
    s.EvrIssues (s.ackWordRead c lostFirst e v) := by
  unfold State.ackWordRead
  dsimp only
  split
  · split <;> exact State.recordStep_issues (s := { s with evr := s.evr.takeAck c.stripCapacity v }) c hc _ _ _ _
  · exact State.nextEvent_issues ({ s with evr := (s.evr.takeAck c.stripCapacity v).drop } : State)

theorem State.recordFinished_issues (hc : s.eng.config = some c) (behind : Option Event) :
    s.EvrIssues (s.recordFinished c behind) := by
  have next (r : Evr) : s.EvrIssues
      ({ ({ s with evr := { s.evr with work := .idle } } : State).raise .event with evr := r } : State).nextEvent :=
    State.nextEvent_issues ({ ({ s with evr := { s.evr with work := .idle } } : State).raise .event with evr := r } : State)
  unfold State.recordFinished
  dsimp only
  split
  · exact next _
  · split
    · exact next _
    · exact State.startOwn_issues (s := ({ s with evr := { s.evr with work := .idle } } : State).raise .event) hc _

/-! ### The request handler -/

theorem slotAccess_ofRqh (b : Fin 16) (j : Nat) (hj : j < 16) (op : AccessOp) :
    Access.ofRqh ⟨.client .rqh, slotOffset b j, op⟩ :=
  ⟨rfl, by dsimp only [slotOffset]; omega, slotOffset_control b j hj⟩

theorem finishingWordIndex_lt (k : Fin 8) : finishingWordIndex k < 16 := by
  fin_cases k <;> decide

theorem State.beginScan_issues (s : State) : s.RqhIssues s.beginScan := .of_rqh _ _ (slotAccess_ofRqh 0 0 (by decide) _)

theorem State.scanOccasion_issues (s : State) : s.RqhIssues s.scanOccasion := by
  unfold State.scanOccasion
  split
  · exact .refl _
  · exact s.beginScan_issues

theorem State.refuseStaleFrom_issues (heads : Vector Word 16) (n : Nat) : s.RqhIssues (s.refuseStaleFrom heads n) := by
  unfold State.refuseStaleFrom
  split
  · exact .of_rqh _ _ (slotAccess_ofRqh _ _ (finishingWordIndex_lt 0) _)
  · unfold State.takeOrEnd
    split
    · unfold State.endScan
      dsimp only
      split
      · exact State.beginScan_issues ({ s with rqh := { s.rqh with
          scan := none
          waitingForTicket := !(s.rqh.slotsOf heads .ahead).isEmpty } } : State)
      · exact .refl _
    · exact .of_rqh _ _ (slotAccess_ofRqh _ 1 (by decide) _)

theorem State.slotRead_issues (k : Fin 16) (heads : Vector Word 16) (w : Word) : s.RqhIssues (s.slotRead k heads w) := by
  unfold State.slotRead
  dsimp only
  split
  · exact .of_rqh _ _ (slotAccess_ofRqh _ 0 (by decide) _)
  · exact State.refuseStaleFrom_issues _ _

theorem State.staleWritten_issues (heads : Vector Word 16) (b : Fin 16) (k : Fin 8) :
    s.RqhIssues (s.staleWritten heads b k) := by
  unfold State.staleWritten
  split
  · exact .of_rqh _ _ (slotAccess_ofRqh _ _ (finishingWordIndex_lt _) _)
  · exact State.refuseStaleFrom_issues (s := ({ s with rqh := { s.rqh with refused := s.rqh.refused + 1 } } : State).raise .reqDone) _ _

theorem State.parameterRead_issues (b : Fin 16) (head : Word) (k : Fin 8) (params : Vector Word 8) (w : Word) :
    s.RqhIssues (s.parameterRead b head k params w) := by
  unfold State.parameterRead
  dsimp only
  split
  · exact .of_rqh _ _ (slotAccess_ofRqh _ _ (by omega) _)
  · exact .of_rqh _ _ (slotAccess_ofRqh _ 0 (by decide) _)

theorem State.requestTaken_issues (b : Fin 16) (head : Word) (params : Vector Word 8) :
    s.RqhIssues (s.requestTaken b head params) := .of_rqh _ _ ⟨rfl, Nat.le_refl 40, by show 40 + 4 ≤ 1088; decide⟩

theorem State.finishStep_issues (h : Held) (code : ResultCode) (results : Vector Word 6) (k : Fin 8) :
    s.RqhIssues (s.finishStep h code results k) := .of_rqh _ _ (slotAccess_ofRqh _ _ (finishingWordIndex_lt k) _)

theorem State.finishingWritten_issues (h : Held) (code : ResultCode) (results : Vector Word 6) (k : Fin 8) :
    s.RqhIssues (s.finishingWritten h code results k) := by
  unfold State.finishingWritten
  split
  · exact State.finishStep_issues _ _ _ _
  · exact State.scanOccasion_issues (({ s with rqh := { s.rqh with
      held := none
      effectTaken := false
      refused := if code = ResultCode.ok then s.rqh.refused else s.rqh.refused + 1 } } : State).raise .reqDone)

theorem State.abandonStep_issues (h : Held) (word0 : Bool) : s.RqhIssues (s.abandonStep h word0) :=
  .of_rqh _ _ (slotAccess_ofRqh _ _ (by split <;> decide) _)

theorem State.takeEdit_issues (h : Held) (e : Edit) : s.RqhIssues (s.takeEdit h e).1 := by
  have := State.finishStep_issues (s := { (s.applyEdit e).state with rqh := { (s.applyEdit e).state.rqh with effectTaken := true } })
    h .ok (resultWords (s.applyEdit e).words) 0
  unfold State.RqhIssues at this ⊢
  simpa [State.takeEdit, State.finish] using this

theorem State.applyNow_issues (h : Held) (e : Edit) : s.RequestIssues (s.applyNow h e) :=
  State.RequestIssues.trans (State.takeEdit_issues h e).request (State.handAll_issues _ _).request (by simp)

theorem State.reachApply_issues (h : Held) (e : Edit) : s.RequestIssues (s.reachApply h e) := by
  unfold State.reachApply
  split
  · exact .of_bip rfl
  · exact State.applyNow_issues h e

theorem State.boundaryApply_issues (now : Bool) : s.RqhIssues (s.boundaryApply now).1 := by
  unfold State.boundaryApply
  split
  · exact .refl _
  · split
    · split
      · exact State.takeEdit_issues _ _
      · exact .refl _
    all_goals exact .refl _

/-! ### The pass -/

theorem State.beginPass_issues (s : State) : s.Issues s.beginPass := .of_pse _ _ ⟨rfl, rfl, rfl⟩

theorem State.trigger_issues (s : State) : s.Issues s.trigger := by
  unfold State.trigger
  split
  · exact s.beginPass_issues
  · split <;> exact .refl _

theorem State.afterPass_issues (halt : Bool) : s.Issues (s.afterPass halt) := by
  unfold State.afterPass
  split
  · exact .refl _
  · split
    · exact State.beginPass_issues ({ s with pse := { s.pse with pendingTrigger := false } } : State)
    · exact .refl _

theorem State.endPass_issues (s : State) (last : Bool) (e : Option Event) : s.Issues (s.endPass last e) := by
  have scanned := (State.scanOccasion_issues ({ s with pse := { s.pse with pass := none } } : State)).request
  have handed (u : State) (now : Bool) : u.RequestIssues ((u.boundaryApply now).1.handTogether e (u.boundaryApply now).2) :=
    State.RequestIssues.trans (State.boundaryApply_issues now).request (State.handTogether_issues _ _ _).request (by simp)
  have after (u : State) (now halt : Bool) (h : s.RequestIssues u) (config : u.eng.config = s.eng.config) :
      s.Issues (((u.boundaryApply now).1.handTogether e (u.boundaryApply now).2).afterPass halt) :=
    (h.trans (handed u now) config).then (State.afterPass_issues _) (by simpa using config)
  exact after _ _ _ scanned (by simp)

theorem State.readHold_issues (s : State) : s.Issues s.readHold := .of_pse _ _ ⟨rfl, rfl, rfl⟩

theorem State.numberPass_issues (stamp : Word) : s.Issues (s.numberPass stamp) := by
  unfold State.numberPass
  dsimp only
  split
  · exact .of_pse _ _ ⟨rfl, rfl, rfl⟩
  · exact .of_pse _ _ ⟨rfl, rfl, rfl⟩

theorem State.startStampRead_issues (stamp : Word) : s.Issues (s.startStampRead stamp) := by
  unfold State.startStampRead
  split
  · exact State.endPass_issues ({ s with pse := { s.pse with skipped := s.pse.skipped + 1, skipFlag := true } } : State) _ _
  · exact State.numberPass_issues _

theorem State.unconfirmedRead_issues (w : Word) : s.Issues (s.unconfirmedRead w) := .of_pse _ _ ⟨rfl, rfl, rfl⟩

theorem State.fillingStep_issues (hc : s.eng.config = some c) (k : Fin 4) : s.Issues (s.fillingStep c k) :=
  .of_pse _ _ ⟨rfl, c, _, hc, rfl, rfl⟩

theorem State.holdRead_issues (hc : s.eng.config = some c) (w : Word) : s.Issues (s.holdRead c w) :=
  .of_pse _ _ ⟨rfl, c, _, hc, rfl, rfl⟩

theorem State.writeEntry_issues (hc : s.eng.config = some c) (i : Fin 256) (v qz : Word) : s.Issues (s.writeEntry c i v qz) :=
  .of_pse _ _ ⟨rfl, c, v, hc, rfl, rfl⟩

theorem State.completePoint_issues (hc : s.eng.config = some c) (i : Fin 256) (d : PointDef) (src : SourceResult) :
    s.Issues (s.completePoint c i d src) := by
  have written (u : State) (es : List Event) (v qz : Word) (hb : u.bip = s.bip) (he : u.eng = s.eng) :
      s.Issues ((u.handAll es).writeEntry c i v qz) := by
    refine State.RequestIssues.then (t := u.handAll es) ?_
      (State.writeEntry_issues (s := u.handAll es) (by simpa [he] using hc) i v qz) (by simp [he])
    have := (State.handAll_issues es u).request
    unfold State.RequestIssues at this ⊢
    rwa [hb, he] at this
  exact written _ _ _ _ rfl rfl

theorem State.convertPoint_issues (hc : s.eng.config = some c) (i : Fin 256) : s.Issues (s.convertPoint c i) := by
  unfold State.convertPoint
  split
  · exact State.writeEntry_issues hc _ _ _
  · split
    · split
      · exact .of_pse _ _ ⟨rfl, c, hc, rfl, by dsimp only; omega, by dsimp only; omega⟩
      · exact State.completePoint_issues hc _ _ _
    · exact State.completePoint_issues hc _ _ _

theorem State.inputRead_issues (hc : s.eng.config = some c) (i : Fin 256) (w : Word) : s.Issues (s.inputRead c i w) := by
  unfold State.inputRead
  split
  · split
    · exact State.completePoint_issues hc _ _ _
    · exact State.convertPoint_issues hc _
  · exact State.convertPoint_issues hc _

theorem State.fillingWritten_issues (hc : s.eng.config = some c) (k : Fin 4) : s.Issues (s.fillingWritten c k) := by
  unfold State.fillingWritten
  split
  · exact State.fillingStep_issues hc _
  · exact State.convertPoint_issues hc _

theorem State.entryValueWritten_issues (hc : s.eng.config = some c) (i : Fin 256) (v qz : Word) :
    s.Issues (s.entryValueWritten c i v qz) := .of_pse _ _ ⟨rfl, c, qz, hc, rfl, rfl⟩

theorem State.entryWritten_issues (hc : s.eng.config = some c) (i : Fin 256) (v qz : Word) :
    s.Issues (s.entryWritten c i v qz) := by
  unfold State.entryWritten
  dsimp only
  split
  · exact State.convertPoint_issues (s := { s with pse := s.pse.foldEntry s.ptb.points[i].definition.isSome v qz }) hc _
  · exact .of_pse _ _ ⟨rfl, rfl, rfl⟩

theorem State.completeStep_issues (hc : s.eng.config = some c) (k : Fin 4) : s.Issues (s.completeStep c k) :=
  .of_pse _ _ ⟨rfl, c, hc, rfl, rfl⟩

theorem State.endStampRead_issues (hc : s.eng.config = some c) (w : Word) : s.Issues (s.endStampRead c w) :=
  State.completeStep_issues (s := { s with pse := { s.pse with
    inputChanged := if w = s.pse.startStamp then s.pse.inputChanged else true } }) hc 0

theorem State.completeWritten_issues (hc : s.eng.config = some c) (k : Fin 4) : s.Issues (s.completeWritten c k) := by
  unfold State.completeWritten
  split
  · exact State.completeStep_issues hc _
  · exact .of_pse _ _ ⟨rfl, rfl, rfl⟩

theorem State.publish_issues (s : State) : s.Issues s.publish :=
  State.endPass_issues (({ s with pse := s.pse.afterPublication } : State).raise .passDone) _ _

/-! ### Work on requests, and all the clients' work -/

theorem State.checkLoad_length {h : Held} {c : Fin 64} {offset length : Nat}
    (checked : s.checkLoad h = .ok (c, offset, length)) :
    6 ≤ length ∧ offset + 4 * length ≤ s.eng.windowLength.getD 0 := by
  unfold State.checkLoad at checked
  split at checked
  · cases checked
  · dsimp only at checked
    split_ifs at checked with haligned hlength hwindow
    cases checked
    omega

/-- Work begun on a request, but CONFIGURE's effect (R151). -/
theorem State.beginWork_issues (h : Held) :
    s.Issues (s.beginWork h) ∨ ∃ c, s.checkConfigure h = .ok c ∧ s.beginWork h = s.configureEffect h c := by
  have begun := s.beginWork_begun h
  generalize s.beginWork h = u at begun
  cases begun with
  | finish code words => exact .inl (State.finishStep_issues _ _ _ _).issues
  | configure c checked => exact .inr ⟨c, checked, rfl⟩
  | load c offset length checked =>
    have := (State.checkLoad_length checked).1
    refine .inl (.of_rqh _ _ (.inr ⟨rfl, rfl, _, _, rfl, rfl, rfl, ?_⟩))
    dsimp only
    omega
  | reach e => exact .inl (State.reachApply_issues h e).issues
  | counters words =>
    exact .inl (State.finishStep_issues
      (s := { s.zeroCounters with rqh := { s.zeroCounters.rqh with effectTaken := true } }) _ _ _ _).issues

theorem State.imageWordRead_issues {h : Held} {b : Building} (held : s.rqh.held = some h) (stage : h.stage = .imageRead)
    (w : Word) : s.Issues (s.imageWordRead h b w) := by
  unfold State.imageWordRead
  dsimp only
  split
  next more =>
    refine .of_rqh _ _ (.inr ⟨rfl, rfl, h, _, held, stage, rfl, ?_⟩)
    dsimp only at more ⊢
    omega
  · split
    · exact (State.finishStep_issues (s := { s with clb := (s.clb.bufferWord b w).discard }) _ _ _ _).issues
    · exact (State.reachApply_issues (s := { s with clb := (s.clb.bufferWord b w).reserve _ _ }) _ _).issues

theorem State.abandonWritten_issues (h : Held) (word0 : Bool) : s.RqhIssues (s.abandonWritten h word0) := by
  unfold State.abandonWritten
  split
  · exact .refl _
  · exact State.abandonStep_issues h true

/-- What the clients issue at the answer to an access: accesses of the kinds above, or CONFIGURE's write of the publication
word. -/
theorem State.ClientWork.issues {a : Access} {x : Client} (work : s.ClientWork a (.client x) t) :
    ({ s with bip := s.bip.ended } : State).Issues t
    ∨ ∃ h c, s.rqh.held = some h ∧ s.rqh.scan = some .ticketWrite ∧ s.checkConfigure h = .ok c
      ∧ t = ({ s.writeDone a with rqh := { s.rqh with scan := none } } : State).configureEffect h c := by
  have read (w : Word) {c : Configuration} (h : s.eng.config = some c) : (s.readDone a w).eng.config = some c := h
  have write {c : Configuration} (h : s.eng.config = some c) : (s.writeDone a).eng.config = some c := h
  cases work with
  | startStamp w => exact .inl (State.startStampRead_issues (s := s.readDone a w) w)
  | unconfirmed w => exact .inl (State.unconfirmedRead_issues (s := s.readDone a w) w)
  | hold w c stage config => exact .inl (State.holdRead_issues (read w config) w)
  | filling c k stage config => exact .inl (State.fillingWritten_issues (write config) k)
  | input w c i stage config => exact .inl (State.inputRead_issues (read w config) i w)
  | entryValue c i v qz stage config => exact .inl (State.entryValueWritten_issues (write config) i v qz)
  | entryQuality c i v qz stage config => exact .inl (State.entryWritten_issues (write config) i v qz)
  | endStamp w c stage config => exact .inl (State.endStampRead_issues (read w config) w)
  | complete c k stage config => exact .inl (State.completeWritten_issues (write config) k)
  | publication => exact .inl (s.writeDone a).publish_issues
  | configureStored h c had old =>
    exact .inl (State.RqhIssues.issues (State.finishStep_issues (s := { s.writeDone a with
      eng := { s.eng with config := some c }
      rqh := { s.rqh with effectTaken := true } }) h .ok _ 0 :
        State.RqhIssues ({ s with bip := s.bip.ended } : State) ((s.writeDone a).configureStored h c had old)))
  | slotRead w k heads => exact .inl (State.slotRead_issues (s := s.readDone a w) k heads w).issues
  | stale heads slot k => exact .inl (State.staleWritten_issues (s := s.writeDone a) heads slot k).issues
  | parameter w slot head k params =>
    exact .inl (State.parameterRead_issues (s := s.readDone a w) slot head k params w).issues
  | taken slot head params => exact .inl (State.requestTaken_issues (s := s.writeDone a) slot head params).issues
  | ticket h scan held =>
    rcases State.beginWork_issues (s := { s.writeDone a with rqh := { s.rqh with scan := none } }) h with hi | ⟨c, hc, ht⟩
    · exact .inl hi
    · exact .inr ⟨h, c, held, scan, hc, ht⟩
  | image w h b held stage building => exact .inl (State.imageWordRead_issues (s := s.readDone a w) held stage w)
  | finishing h code results k => exact .inl (State.finishingWritten_issues (s := s.writeDone a) h code results k).issues
  | abandon h word0 => exact .inl (State.abandonWritten_issues (s := s.writeDone a) h word0).issues
  | ackWord w c lostFirst e work config => exact .inl (State.ackWordRead_issues (read w config) lostFirst e w).issues
  | recordWord c seq e k behind work config =>
    exact .inl (State.recordStep_issues c (write config) seq e _ behind).issues
  | recordNumber c seq e behind work config =>
    exact .inl (State.recordStep_issues (s := { s.writeDone a with evr := s.evr.recordWritten seq e }) c config seq e 4 behind).issues
  | highWater c seq e behind work config => exact .inl (State.recordFinished_issues (write config) behind).issues

end

end Sys2Proof.Machine

/-! The law of the engine state: in each of its four situations - unbound, active, faulted with the abandon-write under way, faulted
and quiet - what a step can lead to. -/
namespace Sys2Proof.Machine

/-! ### The four situations -/

/-- No waiting access of ENG; the clients' are their own; an attach read in flight is disregarded. -/
structure Bip.Clients (b : Bip) : Prop where
  waitEng : b.waitEng = none
  owned : ∀ c a, b.waiting c = some a → a.owner = .client c
  inFlight : ∀ a, b.inFlight = some a → a.owner = .eng → b.disregard = true

/-- No held request is being abandoned. -/
def Rqh.works (r : Rqh) : Prop := ∀ h, r.held = some h → h.abandoning = false

/-- IDLE, RUNNING or STOPPING. -/
structure State.Active (s : State) : Prop where
  engine : s.eng.engine = .idle ∨ s.eng.engine = .running ∨ s.eng.engine = .stopping
  entry : s.eng.faultEntry = false
  timer : s.pse.timer ≠ none → s.eng.engine = .running
  pass : s.pse.pass ≠ none → s.eng.engine = .running ∨ s.eng.engine = .stopping
  stopping : s.eng.engine = .stopping → s.pse.pass ≠ none
  held : s.rqh.works
  bip : s.bip.Clients

/-- DETACHED or ATTACHING: ENG alone has work. -/
structure State.Unbound (s : State) : Prop where
  engine : s.eng.engine = .detached ∨ s.eng.engine = .attaching
  entry : s.eng.faultEntry = false
  idle : s.clientsIdle
  held : s.rqh.held = none
  config : s.eng.config = none
  waitRqh : s.bip.waitRqh = none
  client : ∀ a c, s.bip.inFlight = some a → a.owner = .client c → s.bip.disregard = true
  waitEng : ∀ a, s.bip.waitEng = some a → a.owner = .eng ∧ s.eng.engine = .attaching
  attachRead : ∀ a, s.bip.inFlight = some a → a.owner = .eng → s.bip.disregard = false →
    s.eng.engine = .attaching ∧ s.bip.waitEng = none

/-- FAULTED, the fault entry complete. -/
structure State.Quiet (s : State) : Prop where
  engine : s.eng.engine = .faulted
  entry : s.eng.faultEntry = false
  idle : s.clientsIdle
  held : s.rqh.held = none
  waitEng : s.bip.waitEng = none
  waitRqh : s.bip.waitRqh = none
  inFlight : s.bip.inFlight = none

/-- FAULTED, the abandon-write of the entry under way, its access waiting or in flight. -/
structure State.Abandons (s : State) : Prop where
  engine : s.eng.engine = .faulted
  entry : s.eng.faultEntry = true
  idle : s.clientsIdle
  held : ∃ h, s.rqh.held = some h ∧ h.abandoning = true
  waitEng : s.bip.waitEng = none

/-- The abandon-write's access is in flight. -/
structure State.AbandonInFlight (s : State) : Prop extends s.Abandons where
  waitRqh : s.bip.waitRqh = none
  disregard : s.bip.disregard = false
  inFlight : ∃ a, s.bip.inFlight = some a ∧ a.owner = .client .rqh

/-- The abandon-write's access waits to be granted in the step. -/
structure State.AbandonWaits (s : State) : Prop extends s.Abandons where
  inFlight : s.bip.inFlight = none
  waitRqh : ∃ a, s.bip.waitRqh = some a ∧ a.owner = .client .rqh

section
variable {s t u : State}

theorem State.Active.engineLaw (h : s.Active) : s.engineLaw := by
  have notFaulted : s.eng.engine ≠ .faulted := by rcases h.engine with h | h | h <;> rw [h] <;> exact nofun
  have notUnbound : ¬(s.eng.engine = .detached ∨ s.eng.engine = .attaching) := by
    rcases h.engine with h | h | h <;> rw [h] <;> exact nofun
  refine ⟨h.timer, h.pass, h.stopping, fun he => ?_, fun x hx ha => ?_, fun hf => absurd hf notFaulted,
    fun hu => absurd hu notUnbound, fun a ha => ?_, h.bip.owned, fun a ha ho hd => ?_⟩
  · rw [h.entry] at he; cases he
  · rw [h.held x hx] at ha; cases ha
  · rw [h.bip.waitEng] at ha; cases ha
  · rw [h.bip.inFlight a ha ho] at hd; cases hd

theorem State.clientsIdle.owned (h : s.clientsIdle) (hr : ∀ a, s.bip.waitRqh = some a → a.owner = .client .rqh) :
    ∀ c a, s.bip.waiting c = some a → a.owner = .client c := by
  obtain ⟨-, -, -, -, -, hp, he⟩ := h
  intro c a ha
  cases c with
  | rqh => exact hr a ha
  | pse => exact nomatch hp.symm.trans ha
  | evr => exact nomatch he.symm.trans ha

theorem State.Unbound.engineLaw (h : s.Unbound) : s.engineLaw := by
  have hne {e : EngineState} (h1 : e ≠ .detached) (h2 : e ≠ .attaching) : s.eng.engine ≠ e := by
    rcases h.engine with h | h <;> rw [h]
    · exact h1.symm
    · exact h2.symm
  obtain ⟨hpass, htimer, -⟩ := id h.idle
  refine ⟨fun ht => absurd htimer ht, fun hp => absurd hpass hp, fun hs => absurd hs (hne nofun nofun), fun he => ?_,
    fun x hx => ?_, fun hf => absurd hf (hne nofun nofun),
    fun _ => ⟨h.idle, h.held, h.config, h.waitRqh, h.client⟩, h.waitEng,
    h.idle.owned fun a ha => ?_, h.attachRead⟩
  · rw [h.entry] at he; cases he
  · rw [h.held] at hx; cases hx
  · rw [h.waitRqh] at ha; cases ha

theorem State.Quiet.engineLaw (h : s.Quiet) : s.engineLaw := by
  obtain ⟨hpass, htimer, -⟩ := id h.idle
  refine ⟨fun ht => absurd htimer ht, fun hp => absurd hpass hp, fun hs => ?_, fun he => ?_, fun x hx => ?_, fun _ => ⟨h.idle, ?_⟩,
    fun hu => ?_, fun a ha => ?_, h.idle.owned fun a ha => ?_, fun a ha => ?_⟩
  · rw [h.engine] at hs; cases hs
  · rw [h.entry] at he; cases he
  · rw [h.held] at hx; cases hx
  · rw [h.entry]
    exact ⟨h.held, h.waitRqh, h.inFlight⟩
  · rw [h.engine] at hu; rcases hu with hu | hu <;> cases hu
  · rw [h.waitEng] at ha; cases ha
  · rw [h.waitRqh] at ha; cases ha
  · rw [h.inFlight] at ha; cases ha

theorem State.AbandonInFlight.engineLaw (h : s.AbandonInFlight) : s.engineLaw := by
  obtain ⟨hpass, htimer, -⟩ := id h.idle
  refine ⟨fun ht => absurd htimer ht, fun hp => absurd hpass hp, fun hs => ?_, fun _ => h.engine, fun _ _ _ => h.entry,
    fun _ => ⟨h.idle, ?_⟩, fun hu => ?_, fun a ha => ?_, h.idle.owned fun a ha => ?_, fun a ha ho => ?_⟩
  · rw [h.engine] at hs; cases hs
  · rw [h.entry]
    exact ⟨h.held, h.waitRqh, h.disregard, h.inFlight⟩
  · rw [h.engine] at hu; rcases hu with hu | hu <;> cases hu
  · rw [h.waitEng] at ha; cases ha
  · rw [h.waitRqh] at ha; cases ha
  · obtain ⟨b, hb, hbo⟩ := h.inFlight
    rw [hb] at ha
    cases ha
    rw [hbo] at ho
    cases ho

/-- The law is one of the four situations. -/
theorem State.engineLaw_cases (h : s.engineLaw) : s.Active ∨ s.Unbound ∨ s.Quiet ∨ s.AbandonInFlight := by
  obtain ⟨htimer, hpass, hstopping, hentry, habandon, hfaulted, hunbound, hwaitEng, howned, hread⟩ := h
  have notEntry (hne : s.eng.engine ≠ .faulted) : s.eng.faultEntry = false := Bool.eq_false_of_not_eq_true (mt hentry hne)
  have noEng (hne : s.eng.engine ≠ .attaching) : s.bip.waitEng = none := by
    cases hw : s.bip.waitEng with
    | none => rfl
    | some a => exact absurd (hwaitEng a hw).2 hne
  have active (hengine : s.eng.engine = .idle ∨ s.eng.engine = .running ∨ s.eng.engine = .stopping) : s.Active := by
    have hf : s.eng.engine ≠ .faulted := by rcases hengine with h | h | h <;> rw [h] <;> exact nofun
    have ha : s.eng.engine ≠ .attaching := by rcases hengine with h | h | h <;> rw [h] <;> exact nofun
    refine ⟨hengine, notEntry hf, htimer, hpass, hstopping, fun x hx => ?_, noEng ha, howned, fun a hin ho => ?_⟩
    · cases hab : x.abandoning with
      | false => rfl
      | true => exact absurd (hentry (habandon x hx hab)) hf
    · cases hd : s.bip.disregard with
      | true => rfl
      | false => exact absurd (hread a hin ho hd).1 ha
  have unbound (hengine : s.eng.engine = .detached ∨ s.eng.engine = .attaching) : s.Unbound := by
    obtain ⟨hidle, hheld, hconfig, hwait, hclient⟩ := hunbound hengine
    refine ⟨hengine, notEntry ?_, hidle, hheld, hconfig, hwait, hclient, hwaitEng, hread⟩
    rcases hengine with h | h <;> rw [h] <;> exact nofun
  cases hengine : s.eng.engine with
  | detached => exact .inr (.inl (unbound (.inl hengine)))
  | attaching => exact .inr (.inl (unbound (.inr hengine)))
  | idle => exact .inl (active (.inl hengine))
  | running => exact .inl (active (.inr (.inl hengine)))
  | stopping => exact .inl (active (.inr (.inr hengine)))
  | faulted =>
    obtain ⟨hidle, hrest⟩ := hfaulted hengine
    have hnone := noEng (by rw [hengine]; exact nofun)
    cases he : s.eng.faultEntry with
    | true =>
      rw [he] at hrest
      obtain ⟨hheld, hwait, hdis, hin⟩ := hrest
      exact .inr (.inr (.inr ⟨⟨hengine, he, hidle, hheld, hnone⟩, hwait, hdis, hin⟩))
    | false =>
      rw [he] at hrest
      obtain ⟨hheld, hwait, hin⟩ := hrest
      exact .inr (.inr (.inl ⟨hengine, he, hidle, hheld, hnone, hwait, hin⟩))

/-! ### Grants and failures -/

theorem Bip.next_eq_none {b : Bip} (heng : b.waitEng = none) (h : ∀ c, b.waiting c = none) : b.next = none := by
  unfold Bip.next
  rw [heng, Option.none_or]
  exact List.findSome?_eq_none_iff.2 fun c _ => h c

theorem State.Quiet.next (h : s.Quiet) : s.bip.next = none := by
  obtain ⟨-, -, -, -, -, hp, he⟩ := h.idle
  exact Bip.next_eq_none h.waitEng fun c => by cases c; exacts [h.waitRqh, hp, he]

theorem State.grantNext_of_none (h : s.bip.next = none) (n : Nat) : State.grantNext n s = s := by
  cases n with
  | zero => rfl
  | succ n =>
    unfold State.grantNext
    rw [h]
    split <;> rfl

theorem State.grantNext_of_inFlight {a : Access} (h : s.bip.inFlight = some a) (n : Nat) : State.grantNext n s = s := by
  cases n with
  | zero => rfl
  | succ n =>
    unfold State.grantNext
    rw [h]

/-- One round of grants: nothing is granted, or an access is, or one fails the comparison and the rounds go on. -/
theorem State.grantNext_succ {P : State → Prop} (n : Nat) (busy : s.bip.inFlight ≠ none → P s) (none : s.bip.next = none → P s)
    (granted : ∀ a, s.bip.inFlight = .none → s.bip.next = some a → P (s.grant a))
    (failed : ∀ a, s.bip.inFlight = .none → s.bip.next = some a →
      P (State.grantNext n ({ s with bip := s.bip.unwait a }.accessFailed .busError a))) : P (State.grantNext (n + 1) s) := by
  unfold State.grantNext
  split
  next a ha => exact busy (by simp [ha])
  next hin =>
    split
    next hn => exact none hn
    next a hn =>
      split
      · exact granted a hin hn
      · exact failed a hin hn

theorem State.Quiet.grantNext (h : s.Quiet) (n : Nat) : (State.grantNext n s).engineLaw := by
  rw [State.grantNext_of_none h.next]
  exact h.engineLaw

/-- The failed abandon-write ends the fault entry (R179). -/
theorem State.Abandons.secondFault (h : s.Abandons) (hr : s.bip.waitRqh = none) (hin : s.bip.inFlight = none) :
    s.secondFault.Quiet := by
  obtain ⟨hpass, htimer, hscan, hwork, hqueue, hp, he⟩ := h.idle
  exact ⟨h.engine, rfl, ⟨hpass, htimer, hscan, hwork, hqueue, hp, he⟩, rfl, h.waitEng, hr, hin⟩

theorem State.Abandons.accessFailed (h : s.Abandons) {a : Access} (ha : a.owner = .client .rqh) (kind : FaultKind) :
    s.accessFailed kind a = s.secondFault := by
  obtain ⟨x, hx, hab⟩ := h.held
  unfold State.accessFailed
  rw [ha, hx]
  unfold Held.abandoning at hab
  dsimp only
  split at hab
  next hs => rw [hs]
  all_goals cases hab

theorem State.AbandonWaits.next_owner (h : s.AbandonWaits) {a : Access} (ha : s.bip.next = some a) : a.owner = .client .rqh := by
  obtain ⟨-, -, -, -, -, hp, he⟩ := h.idle
  obtain ⟨b, hb, hbo⟩ := h.waitRqh
  rcases Bip.next_eq_some ha with hw | ⟨c, hw⟩
  · rw [h.waitEng] at hw; cases hw
  · cases c with
    | rqh => rw [show s.bip.waitRqh = some a from hw] at hb; cases hb; exact hbo
    | pse => exact nomatch hp.symm.trans hw
    | evr => exact nomatch he.symm.trans hw

theorem State.AbandonWaits.grantNext (h : s.AbandonWaits) (n : Nat) : (State.grantNext (n + 1) s).engineLaw := by
  obtain ⟨hpass, htimer, hscan, hwork, hqueue, hp, he⟩ := id h.idle
  refine State.grantNext_succ n (fun hb => absurd h.inFlight hb) (fun hn => ?_) (fun a _ hn => ?_) (fun a _ hn => ?_)
  · obtain ⟨b, hb, -⟩ := h.waitRqh
    unfold Bip.next at hn
    rw [h.waitEng, Option.none_or, List.findSome?_eq_none_iff] at hn
    have := hn .rqh (by cases s.bip.lastGranted <;> decide)
    rw [show s.bip.waiting .rqh = _ from hb] at this
    cases this
  · have ho := h.next_owner hn
    have hunwait : s.bip.unwait a = { s.bip with waitRqh := none } := by unfold Bip.unwait; rw [ho]; rfl
    refine State.AbandonInFlight.engineLaw ⟨⟨h.engine, h.entry, ⟨hpass, htimer, hscan, hwork, hqueue, ?_, ?_⟩, h.held, ?_⟩, ?_, rfl, a, rfl, ho⟩
    all_goals simp only [State.grant, hunwait]
    exacts [hp, he, h.waitEng]
  · have ho := h.next_owner hn
    have hunwait : s.bip.unwait a = { s.bip with waitRqh := none } := by unfold Bip.unwait; rw [ho]; rfl
    have habandons : ({ s with bip := s.bip.unwait a } : State).Abandons := by
      rw [hunwait]
      exact ⟨h.engine, h.entry, ⟨hpass, htimer, hscan, hwork, hqueue, hp, he⟩, h.held, h.waitEng⟩
    rw [habandons.accessFailed ho]
    exact (habandons.secondFault (by rw [hunwait]) (by rw [hunwait]; exact h.inFlight)).grantNext n

/-- Fault entry with no access in flight: complete, or its abandon-write waits (R178). -/
theorem State.enterFault_cases (s : State) (kind : FaultKind) (c : Client) (o : Nat) (hin : s.bip.inFlight = none) :
    (s.enterFault kind c o).Quiet ∨ (s.enterFault kind c o).AbandonWaits := by
  unfold State.enterFault State.abandonHeld
  dsimp only
  split
  · exact .inl ⟨rfl, rfl, ⟨rfl, rfl, rfl, rfl, rfl, rfl, rfl⟩, rfl, rfl, rfl, hin⟩
  · split
    · exact .inl ⟨rfl, rfl, ⟨rfl, rfl, rfl, rfl, rfl, rfl, rfl⟩, rfl, rfl, rfl, hin⟩
    · exact .inr ⟨⟨rfl, rfl, ⟨rfl, rfl, rfl, rfl, rfl, rfl, rfl⟩, ⟨_, rfl, rfl⟩, rfl⟩, hin, _, rfl, rfl⟩

theorem State.enterFault_grantNext (s : State) (kind : FaultKind) (c : Client) (o : Nat) (hin : s.bip.inFlight = none)
    (n : Nat) : (State.grantNext (n + 1) (s.enterFault kind c o)).engineLaw := by
  rcases s.enterFault_cases kind c o hin with h | h
  · exact h.grantNext _
  · exact h.grantNext n

/-! ### The active engine -/

/-- The grant of a client's access leaves the clients their own. -/
theorem Bip.Clients.next_owner {b : Bip} (h : b.Clients) {a : Access} (ha : b.next = some a) :
    ∃ c, b.waiting c = some a ∧ a.owner = .client c := by
  rcases Bip.next_eq_some ha with hw | ⟨c, hw⟩
  · rw [h.waitEng] at hw; cases hw
  · exact ⟨c, hw, h.owned c a hw⟩

theorem Bip.waiting_setWaiting (b : Bip) (c d : Client) (a : Option Access) :
    (b.setWaiting c a).waiting d = if c = d then a else b.waiting d := by
  cases c <;> cases d <;> rfl

theorem Bip.setWaiting_frame (b : Bip) (c : Client) (a : Option Access) :
    (b.setWaiting c a).inFlight = b.inFlight ∧ (b.setWaiting c a).disregard = b.disregard
    ∧ (b.setWaiting c a).waitEng = b.waitEng ∧ (b.setWaiting c a).base = b.base := by
  cases c <;> exact ⟨rfl, rfl, rfl, rfl⟩

theorem Bip.Clients.unwait {b : Bip} (h : b.Clients) {a : Access} {c : Client} (ho : a.owner = .client c) : (b.unwait a).Clients := by
  obtain ⟨hin, hdis, heng, -⟩ := b.setWaiting_frame c none
  unfold Bip.unwait
  rw [ho]
  refine ⟨heng.trans h.waitEng, fun d x hx => ?_, fun x hx => ?_⟩
  · rw [b.waiting_setWaiting] at hx
    split at hx
    · cases hx
    · exact h.owned d x hx
  · rw [hin] at hx
    rw [hdis]
    exact h.inFlight x hx

theorem State.Active.of_bip (h : s.Active) {b : Bip} (hb : b.Clients) : ({ s with bip := b } : State).Active :=
  ⟨h.engine, h.entry, h.timer, h.pass, h.stopping, h.held, hb⟩

theorem State.Active.grant (h : s.Active) {a : Access} (ha : s.bip.next = some a) : (s.grant a).Active := by
  obtain ⟨c, -, ho⟩ := h.bip.next_owner ha
  have hb := h.bip.unwait ho
  refine h.of_bip ⟨hb.waitEng, fun d x hx => hb.owned d x ?_, fun x hx ho' => ?_⟩
  · cases d <;> exact hx
  · cases hx
    rw [ho] at ho'
    cases ho'

/-- The held request's image read is outstanding. -/
def Rqh.readsImage (r : Rqh) : Prop := ∃ h, r.held = some h ∧ h.stage = .imageRead

/-- A failure in the active engine refuses a LOAD_CURVE, or faults the engine. -/
theorem State.Active.accessFailed (h : s.Active) {a : Access} {c : Client} (ho : a.owner = .client c) (kind : FaultKind) :
    (∃ o, s.accessFailed kind a = s.enterFault kind c o)
    ∨ (s.rqh.readsImage ∧ ∃ x r, s.accessFailed kind a = s.refuseLoad x r) := by
  unfold State.accessFailed
  rw [ho]
  cases c with
  | pse => exact .inl ⟨_, rfl⟩
  | evr => exact .inl ⟨_, rfl⟩
  | rqh =>
    dsimp only
    split
    · exact .inl ⟨_, rfl⟩
    next x hx =>
      split
      next hstage => exact .inr ⟨⟨x, hx, hstage⟩, x, _, rfl⟩
      next hstage =>
        have := h.held x hx
        unfold Held.abandoning at this
        rw [hstage] at this
        cases this
      all_goals exact .inl ⟨_, rfl⟩

theorem State.Active.grantNext_of_failed (h : s.Active) {n : Nat}
    (failed : ∀ a c, s.bip.inFlight = none → a.owner = .client c → ({ s with bip := s.bip.unwait a } : State).Active →
      (State.grantNext n ({ s with bip := s.bip.unwait a }.accessFailed .busError a)).engineLaw) :
    (State.grantNext (n + 1) s).engineLaw := by
  refine State.grantNext_succ n (fun _ => h.engineLaw) (fun _ => h.engineLaw) (fun a _ hn => (h.grant hn).engineLaw)
    fun a hin hn => ?_
  obtain ⟨c, -, ho⟩ := h.bip.next_owner hn
  exact failed a c hin ho (h.of_bip (h.bip.unwait ho))

theorem Bip.unwait_inFlight (b : Bip) (a : Access) : (b.unwait a).inFlight = b.inFlight := by
  unfold Bip.unwait
  split
  · rfl
  · exact (b.setWaiting_frame _ _).1

/-- Two rounds are enough when no image read can fail. -/
theorem State.Active.grantNext_two (h : s.Active) (himage : ¬s.rqh.readsImage) (n : Nat) :
    (State.grantNext (n + 2) s).engineLaw := by
  refine h.grantNext_of_failed fun a c hin ho hactive => ?_
  rcases hactive.accessFailed ho .busError with ⟨o, hf⟩ | ⟨hread, -⟩
  · rw [hf]
    exact State.enterFault_grantNext _ _ _ _ (by rw [← hin]; exact s.bip.unwait_inFlight a) n
  · exact absurd hread himage

theorem State.Active.refuseLoad (h : s.Active) (x : Held) (r : RefusedWith) :
    (s.refuseLoad x r).Active ∧ ¬(s.refuseLoad x r).rqh.readsImage := by
  refine ⟨⟨by simpa using h.engine, by simpa using h.entry, by simpa using h.timer, by simpa using h.pass,
    by simpa using h.stopping, fun y hy => by cases hy; rfl, h.bip.waitEng, fun c a ha => ?_, h.bip.inFlight⟩, ?_⟩
  · cases c with
    | rqh => cases ha; rfl
    | pse => exact h.bip.owned .pse a ha
    | evr => exact h.bip.owned .evr a ha
  · rintro ⟨y, hy, hstage⟩
    cases hy
    cases hstage

/-- Three rounds are always enough: an image read, another access, and the abandon-write can fail in turn. -/
theorem State.Active.grantNext (h : s.Active) (n : Nat) : (State.grantNext (n + 3) s).engineLaw := by
  refine h.grantNext_of_failed fun a c hin ho hactive => ?_
  rcases hactive.accessFailed ho .busError with ⟨o, hf⟩ | ⟨-, x, r, hf⟩
  · rw [hf]
    exact State.enterFault_grantNext _ _ _ _ (by rw [← hin]; exact s.bip.unwait_inFlight a) (n + 1)
  · rw [hf]
    exact (hactive.refuseLoad x r).1.grantNext_two (hactive.refuseLoad x r).2 n

theorem State.Active.settle (h : s.Active) : s.settle.engineLaw := h.grantNext 2

/-- A failure of the access that was in flight, in the active engine. -/
theorem State.Active.failed_settle (h : s.Active) {a : Access} {c : Client} (ho : a.owner = .client c) (kind : FaultKind)
    (hin : s.bip.inFlight = none) : (s.accessFailed kind a).settle.engineLaw := by
  rcases h.accessFailed ho kind with ⟨o, hf⟩ | ⟨-, x, r, hf⟩
  · rw [hf]
    exact State.enterFault_grantNext _ _ _ _ hin 4
  · rw [hf]
    exact (h.refuseLoad x r).1.settle

/-! ### The unbound engine -/

theorem State.Unbound.next_eq (h : s.Unbound) : s.bip.next = s.bip.waitEng := by
  obtain ⟨-, -, -, -, -, hp, he⟩ := h.idle
  unfold Bip.next
  rw [List.findSome?_eq_none_iff.2 fun c _ => ?_, Option.or_none]
  cases c
  exacts [h.waitRqh, hp, he]

theorem State.Unbound.grantNext (h : s.Unbound) (n : Nat) : (State.grantNext (n + 1) s).engineLaw := by
  obtain ⟨hpass, htimer, hscan, hwork, hqueue, hp, he⟩ := id h.idle
  refine State.grantNext_succ n (fun _ => h.engineLaw) (fun _ => h.engineLaw) (fun a hin hn => ?_) (fun a hin hn => ?_)
  · rw [h.next_eq] at hn
    obtain ⟨ho, hattaching⟩ := h.waitEng a hn
    have hunwait : s.bip.unwait a = { s.bip with waitEng := none } := by unfold Bip.unwait; rw [ho]
    refine State.Unbound.engineLaw ⟨h.engine, h.entry, ⟨hpass, htimer, hscan, hwork, hqueue, ?_, ?_⟩, h.held, h.config, ?_,
      fun x c hx hc => ?_, fun x hx => ?_, fun x _ _ _ => ⟨hattaching, ?_⟩⟩
    · simpa only [State.grant, hunwait] using hp
    · simpa only [State.grant, hunwait] using he
    · simpa only [State.grant, hunwait] using h.waitRqh
    · cases hx
      rw [ho] at hc
      cases hc
    · simp only [State.grant, hunwait] at hx
      cases hx
    · simp only [State.grant, hunwait]
  · rw [h.next_eq] at hn
    obtain ⟨ho, hattaching⟩ := h.waitEng a hn
    have hfailed : ({ s with bip := s.bip.unwait a } : State).accessFailed .busError a
        = ({ s with bip := { s.bip with waitEng := none } } : State).attachFailed .busError := by
      unfold State.accessFailed Bip.unwait
      rw [ho]
    have hu : (({ s with bip := { s.bip with waitEng := none } } : State).attachFailed .busError).Unbound :=
      ⟨.inl rfl, h.entry, ⟨hpass, htimer, hscan, hwork, hqueue, hp, he⟩, h.held, h.config, h.waitRqh,
        h.client, nofun, fun x hx => nomatch hin.symm.trans hx⟩
    rw [hfailed, State.grantNext_of_none hu.next_eq]
    exact hu.engineLaw

theorem State.Unbound.settle (h : s.Unbound) : s.settle.engineLaw := h.grantNext 4

end

end Sys2Proof.Machine

/-! The law of the engine state is kept: the work of clients in the active engine, the commands, and the answers. -/
namespace Sys2Proof.Machine

section
variable {s t u : State}

/-! ### The clients' accesses -/

theorem Bip.Clients.ended {b : Bip} (h : b.Clients) : b.ended.Clients :=
  ⟨h.waitEng, fun c a ha => h.owned c a (by cases c <;> exact ha), nofun⟩

/-- What the clients issue is their own. -/
theorem Bip.Clients.issued {R P E : Access → Prop} {b b' : Bip} (h : b.Clients) (h' : Bip.Issued R P E b b')
    (hR : ∀ a, R a → a.owner = .client .rqh) (hP : ∀ a, P a → a.owner = .client .pse)
    (hE : ∀ a, E a → a.owner = .client .evr) : b'.Clients := by
  have own {c : Client} {x y : Option Access} {Q : Access → Prop} (hx : ∀ a, x = some a → a.owner = .client c)
      (hy : y = x ∨ ∃ a, y = some a ∧ Q a) (hQ : ∀ a, Q a → a.owner = .client c) (a : Access) (ha : y = some a) :
      a.owner = .client c := by
    rcases hy with rfl | ⟨a', ha', hq⟩
    · exact hx a ha
    · rw [ha'] at ha
      cases ha
      exact hQ _ hq
  refine ⟨h'.waitEng.trans h.waitEng, fun c => ?_, fun a ha => ?_⟩
  · cases c with
    | rqh => exact own (h.owned .rqh) h'.rqh hR
    | pse => exact own (h.owned .pse) h'.pse hP
    | evr => exact own (h.owned .evr) h'.evr hE
  · rw [h'.disregard]
    exact h.inFlight a (h'.inFlight ▸ ha)

theorem State.Issues.clients (h : s.Issues t) (hs : s.bip.Clients) : t.bip.Clients :=
  hs.issued h (fun _ ha => ha.elim (·.1) (·.1)) (fun _ ha => ha.1) fun _ ha => ha.1

theorem State.configureEffect_clients (hs : s.bip.Clients) (h : Held) (c : Configuration) :
    (s.configureEffect h c).bip.Clients := by
  refine ⟨hs.waitEng, fun d a ha => ?_, fun a ha ho => ?_⟩
  · cases d with
    | rqh => exact hs.owned .rqh a ha
    | pse => cases ha; rfl
    | evr => cases ha
  · show (s.bip.disregard || _) = true
    rw [hs.inFlight a ha ho, Bool.true_or]

/-- The clients' work leaves them their own accesses. -/
theorem State.ClientWork.clients {a : Access} {x : Client} (h : s.ClientWork a (.client x) t) (hs : s.bip.Clients) :
    t.bip.Clients := by
  rcases h.issues with hi | ⟨y, c, -, -, -, rfl⟩
  · exact hi.clients hs.ended
  · exact State.configureEffect_clients hs.ended y c

/-! ### What work keeps the engine active -/

theorem State.Active.readDone (h : s.Active) (a : Access) (w : Word) : (s.readDone a w).Active :=
  ⟨h.engine, h.entry, h.timer, h.pass, h.stopping, h.held, h.bip.ended⟩

theorem State.Active.writeDone (h : s.Active) (a : Access) : (s.writeDone a).Active :=
  ⟨h.engine, h.entry, h.timer, h.pass, h.stopping, h.held, h.bip.ended⟩

theorem State.Active.failDone (h : s.Active) (a : Access) : (s.failDone a).Active :=
  ⟨by simpa using h.engine, by simpa using h.entry, by simpa using h.timer, by simpa using h.pass, by simpa using h.stopping,
    by simpa using h.held, by simpa using h.bip.ended⟩

/-- Work that leaves the engine state, the timer, and whether a pass is in flight. -/
theorem State.Active.goes (h : s.Active) (engine : u.eng.engine = s.eng.engine) (entry : u.eng.faultEntry = s.eng.faultEntry)
    (timer : u.pse.timer = s.pse.timer) (pass : u.pse.pass ≠ none ↔ s.pse.pass ≠ none) (held : u.rqh.works)
    (bip : u.bip.Clients) : u.Active :=
  ⟨engine.symm ▸ h.engine, entry.trans h.entry, by rw [timer, engine]; exact h.timer,
    by rw [pass, engine]; exact h.pass, by rw [pass, engine]; exact h.stopping, held, bip⟩

/-- Work of RQH and EVR, which leaves PSE. -/
theorem State.Active.requests (h : s.Active) (eng : u.eng.engine = s.eng.engine ∧ u.eng.faultEntry = s.eng.faultEntry)
    (pse : u.pse.timer = s.pse.timer ∧ u.pse.pass = s.pse.pass) (held : u.rqh.works) (bip : u.bip.Clients) : u.Active :=
  h.goes eng.1 eng.2 pse.1 (by rw [pse.2]) held bip

/-- Work of a pass past its number. -/
theorem State.Active.worksOn (h : s.Active) (hp : s.pse.pass ≠ none) (works : s.WorksOn u) (eng : u.eng = s.eng)
    (rqh : u.rqh = s.rqh) (bip : u.bip.Clients) : u.Active :=
  h.goes (by rw [eng]) (by rw [eng]) works.timer ⟨fun _ => hp, fun _ => works.pass.1⟩ (rqh ▸ h.held) bip

theorem Rqh.works_of_held {r r' : Rqh} (h : r.works) (held : r'.held = r.held) : r'.works := by
  unfold Rqh.works
  rw [held]
  exact h

theorem Rqh.works_of_none {r : Rqh} (held : r.held = none) : r.works := by
  intro x hx
  rw [held] at hx
  cases hx

theorem Rqh.works_of_stage {r : Rqh} {x : Held} (held : r.held = some x) (h : x.abandoning = false) : r.works := by
  intro y hy
  rw [held] at hy
  cases hy
  exact h

theorem State.scanOccasion_held (s : State) : s.scanOccasion.rqh.held = s.rqh.held := by
  unfold State.scanOccasion
  split <;> rfl

theorem State.boundaryApply_works (h : s.rqh.works) (now : Bool) : (s.boundaryApply now).1.rqh.works := by
  unfold State.boundaryApply
  split
  · exact h
  · split
    · split
      · exact Rqh.works_of_stage rfl rfl
      · exact Rqh.works_of_stage rfl rfl
    all_goals exact h

theorem State.endPass_works (s : State) (h : s.rqh.works) (last : Bool) (e : Option Event) : (s.endPass last e).rqh.works := by
  unfold State.endPass
  simp only [State.afterPass_frame, State.handTogether_frame]
  refine State.boundaryApply_works (Rqh.works_of_held (r := s.rqh) h ?_) _
  exact State.scanOccasion_held ({ s with pse := { s.pse with pass := none } } : State)

/-- The end of a pass: IDLE, or RUNNING with the next pass begun or none (R107). -/
theorem State.Active.endPass (h : s.Active) (hp : s.pse.pass ≠ none) (last : Bool) (e : Option Event) :
    (s.endPass last e).Active := by
  obtain ⟨heng, hpse⟩ := s.endPass_spec last e
  have held := s.endPass_works h.held last e
  have bip := (s.endPass_issues last e).clients h.bip
  cases hhalt : (s.eng.engine == .stopping || last) with
  | true =>
    rw [hhalt] at heng hpse
    refine ⟨?_, ?_, ?_, ?_, ?_, held, bip⟩ <;> rw [heng]
    · exact .inl rfl
    · exact h.entry
    · rw [hpse]; exact fun ht => absurd rfl ht
    · rw [hpse]; exact fun hpass => absurd rfl hpass
    · exact nofun
  | false =>
    rw [hhalt] at heng hpse
    have hrunning : s.eng.engine = .running := by
      rcases h.pass hp with hr | hr
      · exact hr
      · simp [hr] at hhalt
    refine ⟨?_, ?_, ?_, ?_, ?_, held, bip⟩ <;> rw [heng]
    · exact h.engine
    · exact h.entry
    · exact fun _ => hrunning
    · exact fun _ => .inl hrunning
    · exact fun hs => nomatch hrunning.symm.trans hs

theorem State.reachApply_works (h : Held) (e : Edit) : (s.reachApply h e).rqh.works := by
  unfold State.reachApply
  split
  · exact Rqh.works_of_stage rfl rfl
  · unfold State.applyNow
    simp only [State.handAll_frame]
    exact Rqh.works_of_stage rfl rfl

theorem State.imageWordRead_works (hs : s.rqh.works) (h : Held) (b : Building) (w : Word) : (s.imageWordRead h b w).rqh.works := by
  unfold State.imageWordRead
  dsimp only
  split
  · exact hs
  · split
    · exact Rqh.works_of_stage rfl rfl
    · exact State.reachApply_works _ _

/-- Work begun on a request (R151). -/
theorem State.Active.beginWork (h : s.Active) (x : Held) : (s.beginWork x).Active := by
  have bip : (s.beginWork x).bip.Clients := by
    rcases s.beginWork_issues x with hi | ⟨c, -, hu⟩
    · exact hi.clients h.bip
    · exact hu ▸ State.configureEffect_clients h.bip x c
  have begun := s.beginWork_begun x
  generalize s.beginWork x = u at begun bip
  cases begun with
  | finish code words => exact h.requests (by simp) (by simp) (Rqh.works_of_stage rfl rfl) bip
  | configure c => exact h.goes rfl rfl rfl Iff.rfl (Rqh.works_of_stage rfl rfl) bip
  | load c offset length => exact h.goes rfl rfl rfl Iff.rfl (Rqh.works_of_stage rfl rfl) bip
  | reach e => exact h.requests (by simp) (by simp) (State.reachApply_works x e) bip
  | counters words => exact h.requests (by simp) ⟨rfl, rfl⟩ (Rqh.works_of_stage rfl rfl) bip

/-- The clients' work, the abandon-write apart, keeps the engine active. -/
theorem State.ClientWork.active {a : Access} {x : Client} (h : s.ClientWork a (.client x) u) (hs : s.Active) : u.Active := by
  have bip := h.clients hs.bip
  have read (w : Word) := hs.readDone a w
  have write := hs.writeDone a
  have inPass {stage : PassStage} (h : s.pse.pass = some stage) : s.pse.pass ≠ none := by rw [h]; exact nofun
  cases h with
  | startStamp w stage =>
    unfold State.startStampRead
    split
    · have skips : ({ s.readDone a w with pse := { s.pse with skipped := s.pse.skipped + 1, skipFlag := true } } : State).Active :=
        (read w).goes rfl rfl rfl Iff.rfl hs.held hs.bip.ended
      exact skips.endPass (inPass stage) _ _
    · obtain ⟨-, htimer, hworking⟩ := State.numberPass_pass (s := s.readDone a w) w
      exact (read w).goes (by simp) (by simp) htimer ⟨fun _ => inPass stage, fun _ => hworking.1.1⟩ (by simpa using hs.held)
        ((State.numberPass_issues (s := s.readDone a w) w).clients hs.bip.ended)
  | unconfirmed w stage =>
    exact (read w).worksOn (inPass stage) (State.unconfirmedRead_worksOn w) (by simp) (by simp) bip
  | hold w c stage config =>
    exact (read w).worksOn (inPass stage) ((State.fillingStep_worksOn 0).of_frame rfl rfl) (by simp) (by simp) bip
  | filling c k stage config =>
    exact write.worksOn (inPass stage) (State.fillingWritten_worksOn k) (by simp) (by simp) bip
  | input w c i stage config =>
    exact (read w).worksOn (inPass stage) (State.inputRead_worksOn i w) (by simp) (by simp) bip
  | entryValue c i v qz stage config =>
    exact write.worksOn (inPass stage) ⟨rfl, rfl, Pse.numbered_of_stage (stage := .entryQuality i v qz) rfl nofun⟩ (by simp)
      (by simp) bip
  | entryQuality c i v qz stage config =>
    exact write.worksOn (inPass stage) (State.entryWritten_worksOn i v qz) (by simp) (by simp) bip
  | endStamp w c stage config =>
    exact (read w).worksOn (inPass stage) ((State.completeStep_worksOn 0).of_frame rfl rfl) (by simp) (by simp) bip
  | complete c k stage config =>
    exact write.worksOn (inPass stage) (State.completeWritten_worksOn k) (by simp) (by simp) bip
  | publication stage =>
    have published : (({ s.writeDone a with pse := s.pse.afterPublication } : State).raise .passDone).Active :=
      write.goes rfl rfl rfl Iff.rfl hs.held hs.bip.ended
    exact published.endPass (inPass stage) _ _
  | configureStored h c had old held stage =>
    exact write.goes rfl rfl rfl Iff.rfl (Rqh.works_of_stage rfl rfl) bip
  | slotRead w k heads scan =>
    refine (read w).requests (by simp) (by simp) (Rqh.works_of_held hs.held ?_) bip
    unfold State.slotRead
    dsimp only
    split
    · rfl
    · exact State.refuseStaleFrom_held _ _ _
  | stale heads slot k scan =>
    refine write.requests ?_ (by simp) (Rqh.works_of_held hs.held ?_) bip
    · unfold State.staleWritten
      split <;> simp
    · unfold State.staleWritten
      split
      · rfl
      · exact State.refuseStaleFrom_held _ _ _
  | parameter w slot head k params scan =>
    refine (read w).requests (by simp) (by simp) (Rqh.works_of_held hs.held ?_) bip
    unfold State.parameterRead
    dsimp only
    split <;> rfl
  | taken slot head params scan =>
    exact write.requests (by simp) (by simp) (Rqh.works_of_stage rfl rfl) bip
  | ticket h scan held =>
    have done : ({ s.writeDone a with rqh := { s.rqh with scan := none } } : State).Active :=
      write.goes rfl rfl rfl Iff.rfl hs.held hs.bip.ended
    exact done.beginWork h
  | image w h b held stage building =>
    exact (read w).goes (by simp) (by simp) (by simp) (by simp) (State.imageWordRead_works (s := s.readDone a w) hs.held h b w) bip
  | finishing h code results k held stage =>
    refine write.requests ?_ (by simp) ?_ bip
    · unfold State.finishingWritten
      split <;> simp
    · unfold State.finishingWritten
      split
      · exact Rqh.works_of_stage rfl rfl
      · exact Rqh.works_of_none (State.scanOccasion_held _)
  | abandon h word0 held stage =>
    have := hs.held h held
    unfold Held.abandoning at this
    rw [stage] at this
    cases this
  | ackWord w c lostFirst e work config =>
    exact (read w).requests (by simp) (by simp) (by simpa using hs.held) bip
  | recordWord c seq e k behind work config before =>
    exact write.requests (by simp) (by simp) (by simpa using hs.held) bip
  | recordNumber c seq e behind work config =>
    exact write.requests (by simp) (by simp) (by simpa using hs.held) bip
  | highWater c seq e behind work config =>
    exact write.requests (by simp) (by simp) (by simpa using hs.held) bip

/-! ### Every command -/

/-- An unbound engine but for its reads: ENG's access waits, or none does. -/
theorem State.Unbound.of_detached (engine : u.eng.engine = .detached) (entry : u.eng.faultEntry = false) (idle : u.clientsIdle)
    (held : u.rqh.held = none) (config : u.eng.config = none) (wait : u.bip.waitRqh = none ∧ u.bip.waitEng = none)
    (disregard : ∀ a, u.bip.inFlight = some a → u.bip.disregard = true) : u.Unbound :=
  ⟨.inl engine, entry, idle, held, config, wait.1, fun _ _ ha _ => disregard _ ha, fun _ ha => (by rw [wait.2] at ha; cases ha),
    fun a ha _ hd => (by rw [disregard a ha] at hd; cases hd)⟩

theorem Bip.giveUp_disregard {b : Bip} {a : Access} (h : b.giveUp.inFlight = some a) : b.giveUp.disregard = true := by
  have h : b.inFlight = some a := h
  simp [Bip.giveUp, h]

/-- The end of an access in flight leaves an unbound engine unbound. -/
theorem State.Unbound.ended (h : s.Unbound) (eng : u.eng = s.eng) (pse : u.pse = s.pse) (rqh : u.rqh = s.rqh) (evr : u.evr = s.evr)
    (bip : u.bip = s.bip.ended) : u.Unbound := by
  obtain ⟨hpass, htimer, hscan, hwork, hqueue, hp, he⟩ := h.idle
  refine ⟨eng ▸ h.engine, eng ▸ h.entry, ⟨pse ▸ hpass, pse ▸ htimer, rqh ▸ hscan, evr ▸ hwork, evr ▸ hqueue, ?_, ?_⟩, rqh ▸ h.held,
    eng ▸ h.config, ?_, ?_, ?_, ?_⟩ <;> rw [bip]
  · exact hp
  · exact he
  · exact h.waitRqh
  · exact nofun
  · rw [eng]; exact h.waitEng
  · exact nofun

theorem State.Unbound.attachFailed (h : s.Unbound) (hin : s.bip.inFlight = none) (hw : s.bip.waitEng = none) (r : AttachReason) :
    (s.attachFailed r).Unbound :=
  .of_detached rfl h.entry h.idle h.held h.config ⟨h.waitRqh, hw⟩ fun _ ha => nomatch hin.symm.trans ha

theorem State.Unbound.bipClients (h : s.Unbound) (hin : s.bip.inFlight = none) (hw : s.bip.waitEng = none) : s.bip.Clients :=
  ⟨hw, h.idle.owned fun a ha => (by rw [h.waitRqh] at ha; cases ha), fun a ha => nomatch hin.symm.trans ha⟩

/-- An attach read answered: the next read, or DETACHED, or IDLE (R166, R167). -/
theorem State.Unbound.attachWordRead (h : s.Unbound) (hin : s.bip.inFlight = none) (hw : s.bip.waitEng = none)
    (hattaching : s.eng.engine = .attaching) (w : Word) : (s.attachWordRead w).Active ∨ (s.attachWordRead w).Unbound := by
  unfold State.attachWordRead
  dsimp only
  split
  · refine .inr ⟨h.engine, h.entry, h.idle, h.held, h.config, h.waitRqh, h.client, fun a ha => ?_, fun a ha => nomatch hin.symm.trans ha⟩
    cases ha
    exact ⟨rfl, hattaching⟩
  · split
    · exact .inr (h.attachFailed hin hw _)
    · obtain ⟨hpass, htimer, -⟩ := h.idle
      exact .inl ⟨.inl rfl, h.entry, fun ht => absurd htimer ht, fun hp => absurd hpass hp, nofun, Rqh.works_of_none h.held,
        h.bipClients hin hw⟩

/-- An access in flight that is not disregarded: a client's in the active engine, RQH's in the abandon-write, or ENG's in an
attach. -/
theorem State.engineLaw_inFlight (hs : s.engineLaw) {a : Access} (hin : s.bip.inFlight = some a) (hmark : s.bip.disregard = false) :
    (s.Active ∧ ∃ c, a.owner = .client c) ∨ (s.AbandonInFlight ∧ a.owner = .client .rqh)
    ∨ (s.Unbound ∧ a.owner = .eng ∧ s.eng.engine = .attaching ∧ s.bip.waitEng = none) := by
  rcases s.engineLaw_cases hs with h | h | h | h
  · cases ho : a.owner with
    | eng => rw [h.bip.inFlight a hin ho] at hmark; cases hmark
    | client c => exact .inl ⟨h, c, rfl⟩
  · cases ho : a.owner with
    | eng => exact .inr (.inr ⟨h, rfl, h.attachRead a hin ho hmark⟩)
    | client c => rw [h.client a c hin ho] at hmark; cases hmark
  · exact nomatch h.inFlight.symm.trans hin
  · obtain ⟨b, hb, ho⟩ := h.inFlight
    rw [hb] at hin
    cases hin
    exact .inr (.inl ⟨h, ho⟩)

/-- The abandon-write with its access ended. -/
theorem State.AbandonInFlight.ended (h : s.AbandonInFlight) (eng : u.eng = s.eng) (pse : u.pse = s.pse) (rqh : u.rqh = s.rqh)
    (evr : u.evr = s.evr) (bip : u.bip = s.bip.ended) : u.Abandons ∧ u.bip.waitRqh = none ∧ u.bip.inFlight = none := by
  obtain ⟨hpass, htimer, hscan, hwork, hqueue, hp, he⟩ := h.idle
  refine ⟨⟨eng ▸ h.engine, eng ▸ h.entry, ⟨pse ▸ hpass, pse ▸ htimer, rqh ▸ hscan, evr ▸ hwork, evr ▸ hqueue, ?_, ?_⟩, rqh ▸ h.held, ?_⟩,
    ?_, ?_⟩ <;> rw [bip]
  exacts [hp, he, h.waitEng, h.waitRqh, rfl]

/-- In the abandon-write the answer to its access is the only client's work there is. -/
theorem State.ClientWork.abandonWritten {a : Access} {x : Client} (work : s.ClientWork a (.client x) u) (h : s.AbandonInFlight) :
    ∃ y word0, s.rqh.held = some y ∧ u = (s.writeDone a).abandonWritten y word0 := by
  obtain ⟨hpass, -, hscan, hwork, -⟩ := h.idle
  obtain ⟨y, hy, hab⟩ := h.held
  have inPass {stage : PassStage} (hs : s.pse.pass = some stage) : False := nomatch hpass.symm.trans hs
  have scanning {stage : ScanStage} (hs : s.rqh.scan = some stage) : False := nomatch hscan.symm.trans hs
  have holding {z : Held} {stage : HeldStage} (hz : s.rqh.held = some z) (hs : z.stage = stage)
      (hne : ({ z with stage := stage } : Held).abandoning = false) : False := by
    rw [hy] at hz
    cases hz
    subst hs
    exact nomatch hab.symm.trans hne
  have recording {w : EvrWork} (hs : s.evr.work = w) (hne : w ≠ .idle) : False := hne (hs.symm.trans hwork)
  cases work with
  | abandon z word0 held stage => exact ⟨z, word0, held, rfl⟩
  | startStamp w stage => exact (inPass stage).elim
  | unconfirmed w stage => exact (inPass stage).elim
  | hold w c stage => exact (inPass stage).elim
  | filling c k stage => exact (inPass stage).elim
  | input w c i stage => exact (inPass stage).elim
  | entryValue c i v qz stage => exact (inPass stage).elim
  | entryQuality c i v qz stage => exact (inPass stage).elim
  | endStamp w c stage => exact (inPass stage).elim
  | complete c k stage => exact (inPass stage).elim
  | publication stage => exact (inPass stage).elim
  | configureStored z c had old held stage => exact (holding held stage rfl).elim
  | slotRead w k heads scan => exact (scanning scan).elim
  | stale heads slot k scan => exact (scanning scan).elim
  | parameter w slot head k params scan => exact (scanning scan).elim
  | taken slot head params scan => exact (scanning scan).elim
  | ticket z scan => exact (scanning scan).elim
  | image w z b held stage => exact (holding held stage rfl).elim
  | finishing z code results k held stage => exact (holding held stage rfl).elim
  | ackWord w c lostFirst e work => exact (recording work nofun).elim
  | recordWord c seq e k behind work => exact (recording work nofun).elim
  | recordNumber c seq e behind work => exact (recording work nofun).elim
  | highWater c seq e behind work => exact (recording work nofun).elim

/-- A word of the abandon-write answered: its next word waits, or the fault entry is complete. -/
theorem State.Abandons.written (h : s.Abandons) (hr : s.bip.waitRqh = none) (hin : s.bip.inFlight = none) (y : Held) (word0 : Bool) :
    (s.abandonWritten y word0).Quiet ∨ (s.abandonWritten y word0).AbandonWaits := by
  unfold State.abandonWritten
  split
  · exact .inl ⟨h.engine, rfl, h.idle, rfl, h.waitEng, hr, hin⟩
  · exact .inr ⟨⟨h.engine, h.entry, h.idle, ⟨_, rfl, rfl⟩, h.waitEng⟩, hin, _, rfl, rfl⟩

theorem State.reset_engineLaw : State.reset.engineLaw :=
  (State.Unbound.of_detached rfl rfl ⟨rfl, rfl, rfl, rfl, rfl, rfl, rfl⟩ rfl rfl ⟨rfl, rfl⟩ fun _ ha => (by cases ha)).engineLaw

theorem State.engineLaw_congr (hs : s.engineLaw) (engine : u.eng.engine = s.eng.engine ∧ u.eng.faultEntry = s.eng.faultEntry
    ∧ u.eng.config = s.eng.config) (rqh : u.rqh = s.rqh) (pse : u.pse = s.pse) (evr : u.evr = s.evr) (bip : u.bip = s.bip) :
    u.engineLaw := by
  obtain ⟨hengine, hentry, hconfig⟩ := engine
  unfold State.engineLaw State.clientsIdle at hs ⊢
  rw [hengine, hentry, hconfig, rqh, pse, evr, bip]
  exact hs

theorem State.Takes.engineLaw (h : s.Takes t) (hs : s.engineLaw) : t.engineLaw := by
  have active (he : s.eng.engine = .idle ∨ s.eng.engine = .running ∨ s.eng.engine = .stopping) : s.Active := by
    rcases s.engineLaw_cases hs with h | h | h | h
    · exact h
    · rcases h.engine with h | h <;> rw [h] at he <;> simp at he
    · rw [h.engine] at he; simp at he
    · rw [h.engine] at he; simp at he
  cases h with
  | nothing => exact hs
  | powerOn => exact (State.Unbound.of_detached rfl rfl ⟨rfl, rfl, rfl, rfl, rfl, rfl, rfl⟩ rfl rfl ⟨rfl, rfl⟩ fun _ ha => (by cases ha)).engineLaw
  | engineReset =>
    exact (State.Unbound.of_detached (u := s.engineReset) rfl rfl ⟨rfl, rfl, rfl, rfl, rfl, rfl, rfl⟩ rfl rfl ⟨rfl, rfl⟩
      fun _ ha => Bip.giveUp_disregard (b := s.bip) ha).engineLaw
  | detach engine =>
    exact (State.Unbound.of_detached (u := s.detach) rfl (active (.inl engine)).entry ⟨rfl, rfl, rfl, rfl, rfl, rfl, rfl⟩ rfl rfl ⟨rfl, rfl⟩
      fun _ ha => Bip.giveUp_disregard (b := s.bip) ha).engineLaw
  | attach engine =>
    rcases s.engineLaw_cases hs with h | h | h | h
    · rcases h.engine with h | h | h <;> exact nomatch engine.symm.trans h
    · refine State.Unbound.settle ⟨.inr rfl, h.entry, h.idle, h.held, h.config, h.waitRqh, h.client, fun a ha => ?_,
        fun a ha ho hd => nomatch engine.symm.trans (h.attachRead a ha ho hd).1⟩
      cases ha
      exact ⟨rfl, rfl⟩
    · exact nomatch engine.symm.trans h.engine
    · exact nomatch engine.symm.trans h.engine
  | run c engine config =>
    have h := active (.inl engine)
    exact State.Active.engineLaw ⟨.inr (.inl rfl), h.entry, fun _ => rfl, fun _ => .inl rfl, nofun, h.held, h.bip⟩
  | stop engine =>
    have h := active (.inr (.inl engine))
    refine State.Active.engineLaw ⟨?_, h.entry, nofun, fun hp => ?_, fun hstop hp => ?_, h.held, h.bip⟩
    · dsimp only
      split
      · exact .inl rfl
      · exact .inr (.inr rfl)
    · have hp : s.pse.pass ≠ none := hp
      exact .inr (by simp [hp])
    · have hp : s.pse.pass = none := hp
      simp [hp] at hstop
  | clear engine entry =>
    rcases s.engineLaw_cases hs with h | h | h | h
    · rcases h.engine with h | h | h <;> exact nomatch engine.symm.trans h
    · rcases h.engine with h | h <;> exact nomatch engine.symm.trans h
    · obtain ⟨hpass, htimer, -⟩ := id h.idle
      exact State.Active.engineLaw ⟨.inl rfl, entry, fun ht => absurd htimer ht, fun hp => absurd hpass hp, nofun,
        Rqh.works_of_none h.held, h.waitEng, h.idle.owned fun a ha => (by rw [h.waitRqh] at ha; cases ha),
        fun a ha => nomatch h.inFlight.symm.trans ha⟩
    · exact nomatch entry.symm.trans h.entry
  | wbase w engine => exact State.engineLaw_congr hs ⟨rfl, rfl, rfl⟩ rfl rfl rfl rfl
  | flags => exact State.engineLaw_congr hs ⟨rfl, rfl, rfl⟩ rfl rfl rfl rfl
  | attend engine =>
    have h := active engine
    exact (h.requests (by simp) (by simp) (Rqh.works_of_held h.held s.scanOccasion_held)
      (s.scanOccasion_issues.issues.clients h.bip)).settle
  | trigger source =>
    have hrunning : s.eng.engine = .running := source.elim hs.1 (·.1)
    have h := active (.inr (.inl hrunning))
    exact State.Active.settle ⟨by simpa using h.engine, by simpa using h.entry, fun _ => by simpa using hrunning,
      fun _ => .inl (by simpa using hrunning), fun hstop => (by simp [hrunning] at hstop),
      by simpa using h.held, s.trigger_issues.clients h.bip⟩
  | heldAgain x e held stage pass =>
    have h := active (.inr (hs.2.1 pass))
    exact State.Active.engineLaw ⟨h.engine, h.entry, h.timer, h.pass, h.stopping, Rqh.works_of_stage rfl rfl, h.bip⟩
  | applied x e held stage pass =>
    have h : s.Active := by
      rcases s.engineLaw_cases hs with h | h | h | h
      · exact h
      · exact nomatch h.held.symm.trans held
      · exact nomatch h.held.symm.trans held
      · obtain ⟨y, hy, hab⟩ := h.held
        rw [held] at hy
        cases hy
        unfold Held.abandoning at hab
        rw [stage] at hab
        cases hab
    have applied : (s.applyNow x e).Active := by
      refine h.requests (by simp) (by simp) ?_ ((State.applyNow_issues x e).issues.clients h.bip)
      unfold State.applyNow
      simp only [State.handAll_frame]
      exact Rqh.works_of_stage rfl rfl
    unfold State.settleTogether
    split
    · exact State.Active.settle ⟨applied.engine, applied.entry, applied.timer, applied.pass, applied.stopping, applied.held,
        applied.bip.waitEng, fun c a ha => applied.bip.owned c a (by cases c <;> exact ha), applied.bip.inFlight⟩
    · exact applied.settle
  | answered a o u awaited work =>
    obtain ⟨hin, hmark, ho⟩ := State.awaited_eq_some.1 awaited
    rcases s.engineLaw_inFlight hs hin hmark with ⟨h, c, hc⟩ | ⟨h, hc⟩ | ⟨h, hc, hattaching, hwait⟩
    · obtain rfl := hc.symm.trans ho
      exact (work.active h).settle
    · obtain rfl := hc.symm.trans ho
      obtain ⟨y, word0, -, rfl⟩ := work.abandonWritten h
      obtain ⟨hab, hr, hi⟩ := h.ended (u := s.writeDone a) rfl rfl rfl rfl rfl
      rcases hab.written hr hi y word0 with hq | hw
      · exact hq.grantNext 5
      · exact hw.grantNext 4
    · obtain rfl := hc.symm.trans ho
      cases work with
      | attachWord w =>
        have hend : (s.readDone a w).Unbound := h.ended rfl rfl rfl rfl rfl
        rcases hend.attachWordRead rfl hwait hattaching w with hu | hu
        · exact hu.settle
        · exact hu.settle
  | failed a kind hin hmark =>
    rcases s.engineLaw_inFlight hs hin hmark with ⟨h, c, hc⟩ | ⟨h, hc⟩ | ⟨h, hc, hattaching, hwait⟩
    · exact (h.failDone a).failed_settle hc kind (by simp [Bip.ended])
    · obtain ⟨hab, hr, hi⟩ := h.ended (u := s.failDone a) (by simp) (by simp) (by simp) (by simp) (by simp)
      rw [hab.accessFailed hc]
      exact (hab.secondFault hr hi).grantNext 5
    · have hend : (s.failDone a).Unbound := h.ended (by simp) (by simp) (by simp) (by simp) (by simp)
      have : (s.failDone a).accessFailed kind a = (s.failDone a).attachFailed .busError := by
        unfold State.accessFailed
        rw [hc]
      rw [this]
      exact (hend.attachFailed (by simp [Bip.ended]) (by simpa [Bip.ended] using hwait) _).settle
  | disregarded a u hin hmark ended =>
    have frame : u.eng = s.eng ∧ u.pse = s.pse ∧ u.rqh = s.rqh ∧ u.evr = s.evr ∧ u.bip = s.bip.ended := by
      rcases ended with rfl | rfl
      · exact ⟨rfl, rfl, rfl, rfl, rfl⟩
      · simp
    obtain ⟨heng, hpse, hrqh, hevr, hbip⟩ := frame
    rcases s.engineLaw_cases hs with h | h | h | h
    · rcases ended with rfl | rfl
      · exact (h.writeDone a).settle
      · exact (h.failDone a).settle
    · exact (h.ended heng hpse hrqh hevr hbip).settle
    · exact nomatch h.inFlight.symm.trans hin
    · exact nomatch h.disregard.symm.trans hmark

end

/-- Settles O58: each situation leads to one of the four. -/
theorem engineLawIsKept : Obligations.EngineLawIsKept := by
  intro s t hstep hs
  rcases step_takes hstep with rfl | ⟨rest, h⟩
  · exact hs
  · exact h.engineLaw hs

end Sys2Proof.Machine

/-! The law of placement: every access of the part lies inside the accepted window (R160, R167, R184). -/
namespace Sys2Proof.Machine

/-! ### The parts of the law -/

/-- Where the image under way ends (R33). -/
def State.imageEnd (s : State) (n : Nat) : Prop :=
  ∃ h b, s.rqh.held = some h ∧ h.stage = .imageRead ∧ s.clb.building = some b ∧ n = b.offset + 4 * b.length

/-- What is still to be read or stored lies inside a window of this length (R33, R160). -/
def State.areasLaw (s : State) : Prop :=
  ∀ length, s.eng.windowLength = some length →
    s.placed = true ∧ (∀ n, s.imageEnd n → n ≤ length) ∧ ∀ c, s.rqh.configuring = some c → c.fits length = true

theorem State.placementLaw_iff (s : State) : s.placementLaw ↔
    s.eng.wbaseLaw ∧ s.waitsAdmitted = true
    ∧ (s.eng.engine ≠ .detached → s.eng.engine ≠ .attaching → s.eng.windowLength ≠ none) ∧ s.areasLaw := by
  refine and_congr_right fun _ => and_congr_right fun _ => and_congr_right fun _ => forall_congr' fun length =>
    imp_congr_right fun _ => and_congr_right fun _ => and_congr ⟨?_, ?_⟩ ⟨?_, ?_⟩
  · rintro h n ⟨x, b, hx, hstage, hb, rfl⟩
    exact h x b hx hstage hb
  · exact fun h x b hx hstage hb => h _ ⟨x, b, hx, hstage, hb, rfl⟩
  · intro h c hc
    unfold Rqh.configuring at hc
    split at hc
    next hheld =>
      cases hc
      exact h _ _ _ _ hheld rfl
    · cases hc
  · exact fun h x c had old hx hstage => h c (Rqh.configuring_of_stage hx hstage)

section
variable {s t u : State}

theorem State.waitsAdmitted_iff : s.waitsAdmitted = true ↔
    (∀ a, s.bip.waitEng = some a → a.owner = .eng ∧ s.admits a = true)
    ∧ ∀ c a, s.bip.waiting c = some a → a.owner = .client c ∧ s.admits a = true := by
  have one (x : Option Access) (o : Owner) :
      x.all (s.waitAdmitted o) = true ↔ ∀ a, x = some a → a.owner = o ∧ s.admits a = true := by
    cases x with
    | none => simp
    | some a => simp [State.waitAdmitted]
  unfold State.waitsAdmitted
  simp only [Bool.and_eq_true, one]
  constructor
  · rintro ⟨⟨⟨he, hr⟩, hp⟩, hv⟩
    exact ⟨he, fun c => by cases c; exacts [hr, hp, hv]⟩
  · exact fun ⟨he, h⟩ => ⟨⟨⟨he, h .rqh⟩, h .pse⟩, h .evr⟩

/-- With nothing waiting every waiting access is admitted. -/
theorem State.waitsAdmitted_of_none (he : s.bip.waitEng = none) (h : ∀ c, s.bip.waiting c = none) : s.waitsAdmitted = true := by
  refine State.waitsAdmitted_iff.2 ⟨fun a ha => ?_, fun c a ha => ?_⟩
  · rw [he] at ha; cases ha
  · rw [h c] at ha; cases ha

/-! ### The grant -/

theorem State.admits_congr (hw : u.eng.wbase = s.eng.wbase) (hl : u.eng.windowLength = s.eng.windowLength) (a : Access) :
    u.admits a = s.admits a := by
  unfold State.admits
  rw [hw, hl]

theorem Bip.waiting_unwait (b : Bip) (a : Access) :
    ((b.unwait a).waitEng = none ∨ (b.unwait a).waitEng = b.waitEng)
    ∧ ∀ c, (b.unwait a).waiting c = none ∨ (b.unwait a).waiting c = b.waiting c := by
  unfold Bip.unwait
  split
  · exact ⟨.inl rfl, fun c => .inr (by cases c <;> rfl)⟩
  next d _ =>
    refine ⟨.inr (b.setWaiting_frame d none).2.2.1, fun c => ?_⟩
    rw [b.waiting_setWaiting]
    split
    · exact .inl rfl
    · exact .inr rfl

theorem Bip.waiting_afterGrant (b : Bip) (base : Word) :
    ((b.afterGrant base).waitEng = none ∨ (b.afterGrant base).waitEng = b.waitEng)
    ∧ ∀ c, (b.afterGrant base).waiting c = none ∨ (b.afterGrant base).waiting c = b.waiting c := by
  unfold Bip.afterGrant
  split
  next a _ _ =>
    obtain ⟨heng, hwait⟩ := b.waiting_unwait a
    exact ⟨heng, fun c => by cases c; exacts [hwait .rqh, hwait .pse, hwait .evr]⟩
  all_goals exact ⟨.inr rfl, fun c => .inr rfl⟩

/-- A grant leaves the law. -/
theorem State.placementLaw.settle (h : s.placementLaw) : s.settle.placementLaw := by
  rw [State.placementLaw_iff] at h ⊢
  obtain ⟨hbase, hwaits, hbound, hareas⟩ := h
  rw [State.settle_eq hwaits]
  obtain ⟨heng, hwait⟩ := s.bip.waiting_afterGrant s.eng.wbase
  obtain ⟨hengAdmitted, hadmitted⟩ := State.waitsAdmitted_iff.1 hwaits
  refine ⟨hbase, State.waitsAdmitted_iff.2 ⟨fun a ha => ?_, fun c a ha => ?_⟩, hbound, hareas⟩
  · rcases heng with he | he
    · rw [he] at ha; cases ha
    · exact hengAdmitted a (he ▸ ha)
  · rcases hwait c with he | he
    · rw [he] at ha; cases ha
    · exact hadmitted c a (he ▸ ha)

/-! ### Work within the areas -/

/-- The law in an engine that has accepted a window. -/
structure State.Laid (s : State) (length : Nat) : Prop where
  wbase : s.eng.wbaseLaw
  waits : s.waitsAdmitted = true
  window : s.eng.windowLength = some length
  placed : s.placed = true
  image : ∀ n, s.imageEnd n → n ≤ length
  fits : ∀ c, s.rqh.configuring = some c → c.fits length = true

theorem State.Laid.placementLaw {length : Nat} (h : s.Laid length) : s.placementLaw := by
  refine (State.placementLaw_iff s).2 ⟨h.wbase, h.waits, fun _ _ => (by rw [h.window]; exact nofun), fun l hl => ?_⟩
  obtain rfl := Option.some.inj (h.window.symm.trans hl)
  exact ⟨h.placed, h.image, h.fits⟩

theorem State.placementLaw.laid (h : s.placementLaw) (hd : s.eng.engine ≠ .detached) (ha : s.eng.engine ≠ .attaching) :
    ∃ length, s.Laid length := by
  obtain ⟨hbase, hwaits, hbound, hareas⟩ := (State.placementLaw_iff s).1 h
  obtain ⟨length, hl⟩ := Option.ne_none_iff_exists'.1 (hbound hd ha)
  obtain ⟨hplaced, himage, hfits⟩ := hareas length hl
  exact ⟨length, hbase, hwaits, hl, hplaced, himage, hfits⟩

/-- No image is under way that was not. -/
def State.SameImage (s t : State) : Prop := ∀ n, t.imageEnd n → s.imageEnd n

theorem State.SameImage.of_same (held : t.rqh.held = s.rqh.held) (clb : t.clb = s.clb) : s.SameImage t := by
  intro n hn
  unfold State.imageEnd at hn ⊢
  rwa [held, clb] at hn

theorem State.SameImage.of_stage (h : ∀ x, t.rqh.held = some x → x.stage ≠ .imageRead) : s.SameImage t := by
  rintro n ⟨x, b, hx, hstage, -⟩
  exact absurd hstage (h x hx)

theorem State.SameImage.trans (h : s.SameImage t) (h' : t.SameImage u) : s.SameImage u := fun n hn => h n (h' n hn)

theorem State.SameImage.of_finishing {x : Held} {code : ResultCode} {results : Vector Word 6} {k : Fin 8}
    (h : t.rqh.held = some { x with stage := .finishing code results k }) : s.SameImage t :=
  .of_stage fun y hy => by rw [h] at hy; cases hy; exact nofun

/-- The kinds of accesses that a state with the areas placed may have waiting. -/
theorem Access.ofRqh.admitted {a : Access} (h : a.ofRqh) (hs : s.placed = true) : s.admits a = true := by
  obtain ⟨owner, offset, op⟩ := a
  obtain ⟨rfl, -, hend⟩ := h
  exact State.admits_control hs hend .rqh op

theorem Access.ofEvr.admitted {a : Access} (h : a.ofEvr s.eng.config) (hs : s.placed = true) : s.admits a = true := by
  obtain ⟨owner, offset, op⟩ := a
  obtain ⟨rfl, ⟨rfl, -⟩ | ⟨c, seq, e, k, w, hc, rfl, -⟩⟩ := h
  · exact State.admits_control hs (by decide) .evr op
  · exact State.admits_record hs hc seq e k op

theorem Pse.completeWrite_lt (p : Pse) (k : Fin 4) : (p.completeWrite k).1 < 516 := by
  unfold Pse.completeWrite
  split <;> simp

theorem Access.ofPse.admitted {p : Pse} {a : Access} (h : a.ofPse p s.eng.config) (hs : s.placed = true) : s.admits a = true := by
  obtain ⟨owner, offset, op⟩ := a
  obtain ⟨rfl, h⟩ := h
  have control (ho : offset + 4 ≤ 1088) : s.admits ⟨.client .pse, offset, op⟩ = true := State.admits_control hs ho .pse op
  have bank {c : Configuration} {j : Nat} (hc : s.eng.config = some c) (hj : j < 516) (ho : offset = c.bankWord p.workBank j) :
      s.admits ⟨.client .pse, offset, op⟩ = true := ho ▸ State.admits_bank hs hc _ j hj op
  unfold Pse.awaits at h
  split at h
  · exact h.elim
  · exact control (by rw [show offset = 24 from h.1]; decide)
  · exact control (by rw [show offset = 24 from h.1]; decide)
  · exact control (by rw [show offset = 16 from h.1]; decide)
  · exact control (by rw [show offset = 28 from h.1]; decide)
  · obtain ⟨c, hc, -, -, hend⟩ := h
    obtain ⟨l, hl, hinput, -⟩ := State.placed_config hs hc
    exact State.admits_of_le hl _ _ _ (le_trans hend hinput)
  · obtain ⟨c, w, hc, ho, -⟩ := h
    exact bank hc (by omega) ho
  · obtain ⟨c, w, hc, ho, -⟩ := h
    exact bank hc (by omega) ho
  · obtain ⟨c, w, hc, ho, -⟩ := h
    exact bank hc (by omega) ho
  · obtain ⟨c, hc, ho, -⟩ := h
    exact bank hc (p.completeWrite_lt _) ho
  · exact control (by rw [show offset = 28 from h.1]; decide)

/-- What the clients issue passes the comparison. -/
theorem State.Issues.waitsAdmitted {length : Nat} (h : s.Issues u) (waits : s.waitsAdmitted = true) (placed : s.placed = true)
    (window : s.eng.windowLength = some length) (eng : u.eng.wbase = s.eng.wbase ∧ u.eng.windowLength = s.eng.windowLength)
    (image : ∀ n, u.imageEnd n → n ≤ length) : u.waitsAdmitted = true := by
  obtain ⟨hengAdmitted, hadmitted⟩ := State.waitsAdmitted_iff.1 waits
  have congr (a : Access) : u.admits a = s.admits a := State.admits_congr eng.1 eng.2 a
  have joined {c : Client} {x y : Option Access} {Q : Access → Prop} (hx : ∀ a, x = some a → a.owner = .client c ∧ s.admits a = true)
      (hy : y = x ∨ ∃ a, y = some a ∧ Q a) (hQ : ∀ a, Q a → a.owner = .client c ∧ s.admits a = true) (a : Access) (ha : y = some a) :
      a.owner = .client c ∧ u.admits a = true := by
    rw [congr]
    rcases hy with rfl | ⟨a', ha', hq⟩
    · exact hx a ha
    · rw [ha'] at ha
      cases ha
      exact hQ _ hq
  refine State.waitsAdmitted_iff.2 ⟨fun a ha => ?_, fun c => ?_⟩
  · rw [congr]
    exact hengAdmitted a (h.waitEng ▸ ha)
  · cases c with
    | rqh =>
      refine joined (hadmitted .rqh) h.rqh fun a ha => ?_
      rcases ha with ha | ha
      · exact ⟨ha.1, ha.admitted placed⟩
      · obtain ⟨ho, -, x, b, hx, hstage, hb, hend⟩ := ha
        obtain ⟨owner, offset, op⟩ := a
        cases ho
        exact ⟨rfl, State.admits_of_le window _ _ _ (hend.trans (image _ ⟨x, b, hx, hstage, hb, rfl⟩))⟩
    | pse => exact joined (hadmitted .pse) h.pse fun a ha => ⟨ha.1, ha.admitted placed⟩
    | evr => exact joined (hadmitted .evr) h.evr fun a ha => ⟨ha.1, ha.admitted placed⟩

/-- Work that keeps the areas where they are. -/
theorem State.Laid.goes {length : Nat} (h : s.Laid length) (issues : s.Issues u)
    (eng : u.eng.wbase = s.eng.wbase ∧ u.eng.windowLength = s.eng.windowLength) (config : u.eng.config = s.eng.config)
    (image : s.SameImage u) (configuring : ∀ c, u.rqh.configuring = some c → s.rqh.configuring = some c) : u.Laid length := by
  have himage (n : Nat) (hn : u.imageEnd n) : n ≤ length := h.image n (image n hn)
  refine ⟨?_, issues.waitsAdmitted h.waits h.placed h.window eng himage, eng.2.trans h.window, ?_, himage,
    fun c hc => h.fits c (configuring c hc)⟩
  · unfold Eng.wbaseLaw
    rw [eng.1]
    exact h.wbase
  · rw [State.placed_congr eng.2 config]
    exact h.placed

theorem State.Laid.of_bip {length : Nat} (h : s.Laid length) {b : Bip}
    (waits : ({ s with bip := b } : State).waitsAdmitted = true) : ({ s with bip := b } : State).Laid length :=
  ⟨h.wbase, waits, h.window, h.placed, h.image, h.fits⟩

theorem State.Laid.ended {length : Nat} (h : s.Laid length) : ({ s with bip := s.bip.ended } : State).Laid length :=
  h.of_bip (by rw [State.ended_waitsAdmitted rfl rfl rfl]; exact h.waits)

/-! ### CONFIGURE (R160) -/

theorem State.checkConfigure_fits {h : Held} {c : Configuration} (hc : s.checkConfigure h = .ok c) :
    c.fits (s.eng.windowLength.getD 0) = true := by
  unfold State.checkConfigure at hc
  split at hc
  · cases hc
  · dsimp only at hc
    split at hc
    · cases hc
    · split at hc
      · cases hc
      next hcapacity =>
        split at hc
        · cases hc
        · split at hc
          · cases hc
          · split at hc
            · cases hc
            · split at hc
              · cases hc
              next houtside =>
                split at hc
                · cases hc
                · cases hc
                  simp only [Configuration.outside, List.find?_eq_none, Configuration.area, Configuration.areas] at houtside
                  have h2 := houtside 2 (by simp)
                  have h3 := houtside 3 (by simp)
                  have h4 := houtside 4 (by simp)
                  simp at h2 h3 h4
                  simp only [Configuration.fits, Bool.and_eq_true, decide_eq_true_eq]
                  omega

theorem State.Laid.configureEffect {length : Nat} (h : s.Laid length) {x : Held} {c : Configuration}
    (checked : s.checkConfigure x = .ok c) : (s.configureEffect x c).Laid length := by
  obtain ⟨hengAdmitted, hadmitted⟩ := State.waitsAdmitted_iff.1 h.waits
  have hwindow : 1088 ≤ length := by
    have := h.placed
    unfold State.placed at this
    rw [h.window] at this
    simp [Config.controlBlockBytes] at this
    exact this.1
  refine ⟨h.wbase, State.waitsAdmitted_iff.2 ⟨hengAdmitted, fun d a ha => ?_⟩, h.window, ?_, ?_, fun d hd => ?_⟩
  · cases d with
    | rqh => exact hadmitted .rqh a ha
    | pse =>
      cases ha
      exact ⟨rfl, State.admits_control h.placed (by decide) .pse _⟩
    | evr => cases ha
  · show (State.placed _) = true
    unfold State.placed
    rw [show (s.configureEffect x c).eng.windowLength = some length from h.window]
    simp [State.configureEffect, Config.controlBlockBytes, hwindow]
  · rintro n ⟨y, b, hy, hstage, -⟩
    cases hy
    cases hstage
  · rw [Rqh.configuring_of_stage (r := (s.configureEffect x c).rqh) rfl rfl] at hd
    cases hd
    have := State.checkConfigure_fits checked
    rwa [h.window] at this

/-! ### The clients' work -/

/-- The window, the configuration, the image and the CONFIGURE under way stand, or end. -/
structure State.KeepsAreas (s t : State) : Prop where
  window : t.eng.windowLength = s.eng.windowLength
  config : t.eng.config = s.eng.config
  image : s.SameImage t
  configuring : ∀ c, t.rqh.configuring = some c → s.rqh.configuring = some c

theorem State.KeepsAreas.trans (h : s.KeepsAreas t) (h' : t.KeepsAreas u) : s.KeepsAreas u :=
  ⟨h'.window.trans h.window, h'.config.trans h.config, h.image.trans h'.image, fun c hc => h.configuring c (h'.configuring c hc)⟩

theorem State.KeepsAreas.of_held (window : u.eng.windowLength = s.eng.windowLength) (config : u.eng.config = s.eng.config)
    (held : u.rqh.held = s.rqh.held) (clb : u.clb = s.clb) : s.KeepsAreas u :=
  ⟨window, config, .of_same held clb, fun c hc => by rwa [Rqh.configuring_congr held] at hc⟩

theorem State.KeepsAreas.of_frame (eng : u.eng = s.eng) (rqh : u.rqh = s.rqh) (clb : u.clb = s.clb) : s.KeepsAreas u :=
  .of_held (by rw [eng]) (by rw [eng]) (by rw [rqh]) clb

/-- A stage that neither reads an image nor configures. -/
theorem State.KeepsAreas.of_stage (window : u.eng.windowLength = s.eng.windowLength) (config : u.eng.config = s.eng.config)
    (stage : ∀ x, u.rqh.held = some x → x.stage ≠ .imageRead ∧ ∀ c had old, x.stage ≠ .configureWrite c had old) :
    s.KeepsAreas u := by
  refine ⟨window, config, .of_stage fun x hx => (stage x hx).1, fun c hc => ?_⟩
  rw [Rqh.configuring_eq_none fun x c had old hx => (stage x hx).2 c had old] at hc
  cases hc

theorem State.finishStep_areas (h : Held) (code : ResultCode) (results : Vector Word 6) (k : Fin 8) :
    s.KeepsAreas (s.finishStep h code results k) :=
  .of_stage rfl rfl fun x hx => by cases hx; exact ⟨nofun, nofun⟩

theorem State.takeEdit_areas (h : Held) (e : Edit) : s.KeepsAreas (s.takeEdit h e).1 :=
  .of_stage (by simp) (by simp) fun x hx => by cases hx; exact ⟨nofun, nofun⟩

theorem State.handTogether_areas (e : Option Event) (es : List Event) : s.KeepsAreas (s.handTogether e es) :=
  .of_frame (by simp) (by simp) (by simp)

theorem State.reachApply_areas (h : Held) (e : Edit) : s.KeepsAreas (s.reachApply h e) := by
  unfold State.reachApply
  split
  · exact .of_stage rfl rfl fun x hx => by cases hx; exact ⟨nofun, nofun⟩
  · exact (State.takeEdit_areas h e).trans (.of_frame (by simp [State.applyNow]) (by simp [State.applyNow]) (by simp [State.applyNow]))

theorem State.scanOccasion_areas (s : State) : s.KeepsAreas s.scanOccasion :=
  .of_held (by simp) (by simp) s.scanOccasion_held (by simp)

theorem State.boundaryApply_areas (now : Bool) : s.KeepsAreas (s.boundaryApply now).1 := by
  unfold State.boundaryApply
  split
  · exact .of_frame rfl rfl rfl
  · split
    · split
      · exact State.takeEdit_areas _ _
      · exact .of_stage rfl rfl fun x hx => by cases hx; exact ⟨nofun, nofun⟩
    all_goals exact .of_frame rfl rfl rfl

theorem State.afterPass_areas (halt : Bool) : s.KeepsAreas (s.afterPass halt) := by
  refine .of_held ?_ ?_ (by simp) (by simp) <;> (rw [(s.afterPass_spec halt).1]; split <;> rfl)

theorem State.endPass_areas (s : State) (last : Bool) (e : Option Event) : s.KeepsAreas (s.endPass last e) := by
  have scanned : s.KeepsAreas ({ s with pse := { s.pse with pass := none } } : State).scanOccasion :=
    State.KeepsAreas.trans (t := { s with pse := { s.pse with pass := none } }) (.of_frame rfl rfl rfl) (State.scanOccasion_areas _)
  have after (v : State) (now halt : Bool) (h : s.KeepsAreas v) :
      s.KeepsAreas (((v.boundaryApply now).1.handTogether e (v.boundaryApply now).2).afterPass halt) :=
    h.trans ((State.boundaryApply_areas now).trans ((State.handTogether_areas _ _).trans (State.afterPass_areas _)))
  exact after _ _ _ scanned

theorem State.imageWordRead_areas {h : Held} {b : Building} (building : s.clb.building = some b) (w : Word) :
    s.KeepsAreas (s.imageWordRead h b w) := by
  unfold State.imageWordRead
  dsimp only
  split
  · refine ⟨rfl, rfl, ?_, fun _ => id⟩
    rintro n ⟨x, b', hx, hstage, hb, rfl⟩
    cases hb
    exact ⟨x, b, hx, hstage, building, rfl⟩
  · split
    · exact .of_stage rfl rfl fun x hx => by cases hx; exact ⟨nofun, nofun⟩
    · exact State.KeepsAreas.trans (t := { s with clb := (s.clb.bufferWord b w).reserve _ _, rqh := { s.rqh with held := none } })
        (.of_stage rfl rfl nofun) (State.reachApply_areas (s := { s with
          clb := (s.clb.bufferWord b w).reserve _ _
          rqh := { s.rqh with held := none } }) _ _)

theorem State.Laid.beginWork {length : Nat} (h : s.Laid length) (x : Held) : (s.beginWork x).Laid length := by
  have goes (areas : s.KeepsAreas (s.beginWork x)) (issues : s.Issues (s.beginWork x)) : (s.beginWork x).Laid length :=
    h.goes issues ⟨s.beginWork_wbase x, areas.window⟩ areas.config areas.image areas.configuring
  rcases s.beginWork_issues x with issues | ⟨c, checked, hu⟩
  · have begun := s.beginWork_begun x
    generalize s.beginWork x = u at begun issues goes
    cases begun with
    | finish => exact goes (State.finishStep_areas _ _ _ _) issues
    | configure c checked => exact h.configureEffect checked
    | load c offset len checked =>
      have hend := (State.checkLoad_length checked).2
      rw [h.window] at hend
      have himage (n : Nat) (hn : State.imageEnd (({ s with
          clb := s.clb.openBuilding c offset len
          rqh := { s.rqh with held := some { x with stage := .imageRead } } } : State).issue .rqh offset .read) n) : n ≤ length := by
        obtain ⟨y, b, hy, -, hb, rfl⟩ := hn
        cases hb
        exact hend
      exact ⟨h.wbase, issues.waitsAdmitted h.waits h.placed h.window ⟨rfl, rfl⟩ himage, h.window, h.placed, himage, nofun⟩
    | reach e => exact goes (State.reachApply_areas _ _) issues
    | counters words => exact goes (.of_stage rfl rfl fun y hy => by cases hy; exact ⟨nofun, nofun⟩) issues
  · exact hu ▸ h.configureEffect checked

/-- The clients' work keeps the law. -/
theorem State.ClientWork.laid {length : Nat} {a : Access} {x : Client} (work : s.ClientWork a (.client x) u) (h : s.Laid length) :
    u.Laid length := by
  have read (w : Word) : s.KeepsAreas (s.readDone a w) := .of_frame rfl rfl rfl
  have write : s.KeepsAreas (s.writeDone a) := .of_frame rfl rfl rfl
  have goes (areas : s.KeepsAreas u) : u.Laid length := by
    rcases work.issues with issues | ⟨y, c, -, -, checked, rfl⟩
    · exact h.ended.goes issues ⟨work.wbase, areas.window⟩ areas.config areas.image areas.configuring
    · exact State.Laid.configureEffect (s := { s.writeDone a with rqh := { s.rqh with scan := none } })
        ⟨h.wbase, h.ended.waits, h.window, h.placed, h.image, h.fits⟩ checked
  cases work with
  | startStamp w =>
    refine goes ((read w).trans ?_)
    unfold State.startStampRead
    split
    · exact State.KeepsAreas.trans (t := { s.readDone a w with pse := { s.pse with skipped := s.pse.skipped + 1, skipFlag := true } })
        (.of_frame rfl rfl rfl) (State.endPass_areas _ _ _)
    · exact .of_frame (by simp) (by simp) (by simp)
  | publication =>
    exact goes (write.trans (State.KeepsAreas.trans
      (t := ({ s.writeDone a with pse := s.pse.afterPublication } : State).raise .passDone) (.of_held rfl rfl rfl rfl)
      (State.endPass_areas _ _ _)))
  | configureStored y c had old held stage =>
    have fits := h.fits c (Rqh.configuring_of_stage held stage)
    have placed : ((s.writeDone a).configureStored y c had old).placed = true := by
      have := h.placed
      unfold State.placed at this ⊢
      rw [h.window] at this
      rw [show ((s.writeDone a).configureStored y c had old).eng.windowLength = some length from h.window]
      simp only [Bool.and_eq_true] at this ⊢
      exact ⟨this.1, fits⟩
    have noImage (n : Nat) (hn : ((s.writeDone a).configureStored y c had old).imageEnd n) : n ≤ length := by
      obtain ⟨z, b, hz, hstage, -⟩ := hn
      cases hz
      cases hstage
    have issues : ({ s with bip := s.bip.ended } : State).Issues ((s.writeDone a).configureStored y c had old) :=
      State.RqhIssues.issues (State.finishStep_issues (s := { s.writeDone a with
        eng := { s.eng with config := some c }
        rqh := { s.rqh with effectTaken := true } }) y .ok _ 0)
    exact ⟨h.wbase, issues.waitsAdmitted h.ended.waits h.placed h.window ⟨rfl, rfl⟩ noImage, h.window, placed, noImage, nofun⟩
  | slotRead w k heads =>
    refine goes ((read w).trans (.of_held (by simp) (by simp) ?_ (by simp)))
    unfold State.slotRead
    dsimp only
    split
    · rfl
    · exact State.refuseStaleFrom_held _ _ _
  | stale heads slot k =>
    refine goes (write.trans (.of_held ?_ ?_ ?_ (by simp)))
    all_goals
      unfold State.staleWritten
      split
    · rfl
    · simp
    · rfl
    · simp
    · rfl
    · exact State.refuseStaleFrom_held _ _ _
  | parameter w slot head k params =>
    refine goes ((read w).trans (.of_held (by simp) (by simp) ?_ (by simp)))
    unfold State.parameterRead
    dsimp only
    split <;> rfl
  | taken slot head params => exact goes (write.trans (.of_stage rfl rfl fun y hy => by cases hy; exact ⟨nofun, nofun⟩))
  | ticket y =>
    have done : ({ s.writeDone a with rqh := { s.rqh with scan := none } } : State).Laid length :=
      ⟨h.wbase, h.ended.waits, h.window, h.placed, h.image, h.fits⟩
    exact done.beginWork y
  | image w y b held stage building =>
    exact goes ((read w).trans (State.imageWordRead_areas (s := s.readDone a w) building w))
  | finishing y code results k =>
    refine goes (write.trans ?_)
    unfold State.finishingWritten
    split
    · exact State.finishStep_areas _ _ _ _
    · exact .of_stage (by simp) (by simp) fun z hz => by rw [State.scanOccasion_held] at hz; cases hz
  | abandon y word0 =>
    refine goes (write.trans ?_)
    unfold State.abandonWritten
    split
    · exact .of_stage rfl rfl nofun
    · exact .of_stage rfl rfl fun z hz => by cases hz; exact ⟨nofun, nofun⟩
  | unconfirmed w => exact goes ((read w).trans (.of_frame (by simp) (by simp) (by simp)))
  | hold w c => exact goes ((read w).trans (.of_frame (by simp) (by simp) (by simp)))
  | filling c k => exact goes (write.trans (.of_frame (by simp) (by simp) (by simp)))
  | input w c i => exact goes ((read w).trans (.of_frame (by simp) (by simp) (by simp)))
  | entryValue c i v qz => exact goes (write.trans (.of_frame (by simp) (by simp) (by simp)))
  | entryQuality c i v qz => exact goes (write.trans (.of_frame (by simp) (by simp) (by simp)))
  | endStamp w c => exact goes ((read w).trans (.of_frame (by simp) (by simp) (by simp)))
  | complete c k => exact goes (write.trans (.of_frame (by simp) (by simp) (by simp)))
  | ackWord w c lostFirst e => exact goes ((read w).trans (.of_frame (by simp) (by simp) (by simp)))
  | recordWord c seq e k behind => exact goes (write.trans (.of_frame (by simp) (by simp) (by simp)))
  | recordNumber c seq e behind => exact goes (write.trans (.of_held (by simp) (by simp) (by simp) (by simp)))
  | highWater c seq e behind => exact goes (write.trans (.of_held (by simp) (by simp) (by simp) (by simp)))

/-! ### Failures and the commands -/

theorem State.Laid.abandonHeld {length : Nat} (h : s.Laid length) : s.abandonHeld.Laid length := by
  have plain (x : Held) (hx : s.abandonHeld.rqh.held = some x) : x.stage ≠ .imageRead ∧ ∀ c had old, x.stage ≠ .configureWrite c had old := by
    have := s.abandonHeld_plain x hx
    constructor
    · rintro hstage
      unfold State.abandonHeld at hx
      dsimp only at hx
      split at hx
      · cases hx
      · split at hx
        · cases hx
        · cases hx
          cases hstage
    · intro c had old hstage
      rw [hstage] at this
      cases this
  have eng : s.abandonHeld.eng.wbase = s.eng.wbase ∧ s.abandonHeld.eng.windowLength = s.eng.windowLength := by
    unfold State.abandonHeld
    dsimp only
    split
    · exact ⟨rfl, rfl⟩
    · split <;> exact ⟨rfl, rfl⟩
  have issues : s.Issues s.abandonHeld := by
    unfold State.abandonHeld
    dsimp only
    split
    · exact .refl _
    · split
      · exact .refl _
      · exact (State.abandonStep_issues (s := { s with rqh := { s.rqh with
          held := none, scan := none, scanRequested := false, effectTaken := false } }) _ _).issues
  have areas : s.KeepsAreas s.abandonHeld := .of_stage eng.2 s.abandonHeld_config plain
  exact h.goes issues eng areas.config areas.image areas.configuring

theorem State.Laid.enterFault {length : Nat} (h : s.Laid length) (kind : FaultKind) (c : Client) (o : Nat) :
    (s.enterFault kind c o).Laid length := by
  refine State.Laid.abandonHeld ⟨h.wbase, State.waitsAdmitted_of_none rfl fun d => by cases d <;> rfl, h.window, h.placed, ?_, h.fits⟩
  rintro n ⟨x, b, hx, hstage, hb, -⟩
  rw [show (Clb.discard s.clb).building = none from s.clb.discard_spec.2.1] at hb
  cases hb

theorem State.Laid.accessFailed {length : Nat} (h : s.Laid length) {a : Access} {c : Client} (ho : a.owner = .client c)
    (kind : FaultKind) : (s.accessFailed kind a).Laid length := by
  unfold State.accessFailed
  rw [ho]
  cases c with
  | pse => exact h.enterFault _ _ _
  | evr => exact h.enterFault _ _ _
  | rqh =>
    dsimp only
    split
    · exact h.enterFault _ _ _
    next x _ =>
      split
      · have areas : s.KeepsAreas (s.refuseLoad x (imageFailure kind a.offset)) :=
          .of_stage rfl rfl fun y hy => by cases hy; exact ⟨nofun, nofun⟩
        exact h.goes (State.finishStep_issues (s := { s with clb := s.clb.discard }) _ _ _ _).issues ⟨rfl, rfl⟩ areas.config
          areas.image areas.configuring
      · have areas : s.KeepsAreas s.secondFault := .of_stage rfl rfl nofun
        exact h.goes (.refl _) ⟨rfl, rfl⟩ areas.config areas.image areas.configuring
      all_goals exact h.enterFault _ _ _

/-- An unbound engine has no client's access waiting. -/
theorem State.Unbound.waiting (h : s.Unbound) (c : Client) : s.bip.waiting c = none := by
  obtain ⟨-, -, -, -, -, hp, he⟩ := h.idle
  cases c
  exacts [h.waitRqh, hp, he]

theorem State.Unbound.areasLaw (h : u.Unbound) (config : s.eng.config = none) (window : u.eng.windowLength = s.eng.windowLength)
    (areas : s.areasLaw) : u.areasLaw := by
  intro length hl
  obtain ⟨hplaced, -, -⟩ := areas length (window ▸ hl)
  refine ⟨?_, fun n hn => ?_, fun c hc => ?_⟩
  · rw [State.placed_congr window (h.config.trans config.symm)]
    exact hplaced
  · obtain ⟨x, b, hx, -⟩ := hn
    rw [h.held] at hx
    cases hx
  · unfold Rqh.configuring at hc
    rw [h.held] at hc
    cases hc

theorem State.Unbound.placementLaw (h : u.Unbound) (wbase : u.eng.wbaseLaw) (areas : u.areasLaw)
    (waits : u.waitsAdmitted = true) : u.placementLaw := by
  refine (State.placementLaw_iff u).2 ⟨wbase, waits, fun hd ha => ?_, areas⟩
  exact absurd h.engine (not_or.2 ⟨hd, ha⟩)

/-- The next attach read: granted, or, where it would pass the top of the address space, the attach fails (R166). -/
theorem State.Unbound.settle_placementLaw (h : u.Unbound) (wbase : u.eng.wbaseLaw) (areas : u.areasLaw)
    (hin : u.bip.inFlight = none) : u.settle.placementLaw := by
  refine State.grantNext_succ (P := State.placementLaw) 4 (fun hb => absurd hin hb) (fun hn => ?_) (fun a _ hn => ?_) (fun a _ hn => ?_)
  · rw [h.next_eq] at hn
    exact h.placementLaw wbase areas (State.waitsAdmitted_of_none hn h.waiting)
  all_goals
    rw [h.next_eq] at hn
    obtain ⟨ho, -⟩ := h.waitEng a hn
    have hunwait : u.bip.unwait a = { u.bip with waitEng := none } := by unfold Bip.unwait; rw [ho]
  · refine (State.placementLaw_iff _).2 ⟨wbase, State.waitsAdmitted_of_none ?_ fun c => ?_, fun hd ha => ?_, areas⟩
    · simp only [State.grant, hunwait]
    · simp only [State.grant, hunwait]
      exact (by cases c <;> rfl : _ = u.bip.waiting c).trans (h.waiting c)
    · exact absurd h.engine (not_or.2 ⟨hd, ha⟩)
  · have hfailed : ({ u with bip := u.bip.unwait a } : State).accessFailed .busError a
        = ({ u with bip := { u.bip with waitEng := none } } : State).attachFailed .busError := by
      unfold State.accessFailed
      rw [hunwait, ho]
    have hnone (c : Client) : ({ u.bip with waitEng := none } : Bip).waiting c = none :=
      (by cases c <;> rfl : _ = u.bip.waiting c).trans (h.waiting c)
    rw [hfailed, State.grantNext_of_none
      (s := ({ u with bip := { u.bip with waitEng := none } } : State).attachFailed .busError) (Bip.next_eq_none rfl hnone)]
    exact (State.placementLaw_iff _).2 ⟨wbase, State.waitsAdmitted_of_none rfl hnone, fun hd => absurd rfl hd, areas⟩

theorem attachFault_length {wbase w0 w1 w2 : Word} (h : attachFault wbase w0 w1 w2 = none) : 1088 ≤ w2.toNat := by
  unfold attachFault at h
  split_ifs at h with h0 h1 h2
  unfold Config.controlBlockBytes at h2
  omega

/-- A law that speaks of ENG's window and configuration, WBASE, BIP, RQH and the library alone. -/
theorem State.placementLaw_congr (hs : s.placementLaw) (wbase : u.eng.wbase = s.eng.wbase)
    (window : u.eng.windowLength = s.eng.windowLength) (config : u.eng.config = s.eng.config) (rqh : u.rqh.held = s.rqh.held)
    (clb : u.clb = s.clb) (bip : u.bip = s.bip)
    (bound : u.eng.engine ≠ .detached → u.eng.engine ≠ .attaching → s.eng.engine ≠ .detached ∧ s.eng.engine ≠ .attaching) :
    u.placementLaw := by
  obtain ⟨hbase, hwaits, hbound, hareas⟩ := (State.placementLaw_iff s).1 hs
  refine (State.placementLaw_iff u).2 ⟨?_, ?_, fun hd ha => ?_, fun length hl => ?_⟩
  · unfold Eng.wbaseLaw
    rw [wbase]
    exact hbase
  · rw [State.waitsAdmitted_congr bip wbase window]
    exact hwaits
  · obtain ⟨hd, ha⟩ := bound hd ha
    rw [window]
    exact hbound hd ha
  · obtain ⟨hplaced, himage, hfits⟩ := hareas length (window ▸ hl)
    refine ⟨?_, fun n hn => himage n (State.SameImage.of_same rqh clb n hn), fun c hc => hfits c ?_⟩
    · rw [State.placed_congr window config]
      exact hplaced
    · rwa [Rqh.configuring_congr rqh] at hc

theorem State.placementLaw_of_unbound (wbase : u.eng.wbaseLaw) (window : u.eng.windowLength = none)
    (waitEng : u.bip.waitEng = none) (waiting : ∀ c, u.bip.waiting c = none)
    (engine : u.eng.engine = .detached) : u.placementLaw :=
  (State.placementLaw_iff u).2 ⟨wbase, State.waitsAdmitted_of_none waitEng waiting, fun hd => absurd engine hd,
    fun _ hl => nomatch window.symm.trans hl⟩

theorem State.Takes.placementLaw (h : s.Takes t) (he : s.engineLaw) (hs : s.placementLaw) : t.placementLaw := by
  have hbase := h.wbaseLaw ((State.placementLaw_iff s).1 hs).1
  have laid (engine : s.eng.engine ≠ .detached ∧ s.eng.engine ≠ .attaching) : ∃ length, s.Laid length := hs.laid engine.1 engine.2
  have active (h : s.Active) : s.eng.engine ≠ .detached ∧ s.eng.engine ≠ .attaching := by
    rcases h.engine with h | h | h <;> rw [h] <;> exact ⟨nofun, nofun⟩
  cases h with
  | nothing => exact hs
  | powerOn => exact State.placementLaw_of_unbound hbase rfl rfl (fun c => by cases c <;> rfl) rfl
  | engineReset => exact State.placementLaw_of_unbound hbase rfl rfl (fun c => by cases c <;> rfl) rfl
  | detach => exact State.placementLaw_of_unbound hbase rfl rfl (fun c => by cases c <;> rfl) rfl
  | attach engine =>
    obtain ⟨hwbase, hwaits, -, hareas⟩ := (State.placementLaw_iff s).1 hs
    refine State.placementLaw.settle ((State.placementLaw_iff _).2 ⟨hwbase, State.waitsAdmitted_iff.2 ⟨fun a ha => ?_, ?_⟩,
      fun _ ha => absurd rfl ha, hareas⟩)
    · cases ha
      refine ⟨rfl, ?_⟩
      have := s.eng.wbase.isLt
      unfold Eng.wbaseLaw at hwbase
      simp only [State.admits, State.issueAttachRead_frame]
      exact decide_eq_true (by omega)
    · exact (State.waitsAdmitted_iff.1 hwaits).2
  | run c engine => exact State.placementLaw_congr hs rfl rfl rfl rfl rfl rfl fun _ _ => by rw [engine]; exact ⟨nofun, nofun⟩
  | stop engine => exact State.placementLaw_congr hs rfl rfl rfl rfl rfl rfl fun _ _ => by rw [engine]; exact ⟨nofun, nofun⟩
  | clear engine => exact State.placementLaw_congr hs rfl rfl rfl rfl rfl rfl fun _ _ => by rw [engine]; exact ⟨nofun, nofun⟩
  | wbase w engine =>
    rcases s.engineLaw_cases he with h | h | h | h
    · exact absurd engine (active h).1
    · have hnone : s.bip.waitEng = none := by
        cases hw : s.bip.waitEng with
        | none => rfl
        | some a => exact nomatch engine.symm.trans (h.waitEng a hw).2
      exact (State.placementLaw_iff _).2 ⟨hbase, State.waitsAdmitted_of_none hnone h.waiting,
        fun hd => absurd engine hd, ((State.placementLaw_iff s).1 hs).2.2.2⟩
    · exact nomatch engine.symm.trans h.engine
    · exact nomatch engine.symm.trans h.engine
  | flags => exact State.placementLaw_congr hs rfl rfl rfl rfl rfl rfl fun hd ha => ⟨hd, ha⟩
  | attend engine =>
    obtain ⟨length, hl⟩ := laid (by rcases engine with h | h | h <;> rw [h] <;> exact ⟨nofun, nofun⟩)
    have areas := s.scanOccasion_areas
    exact (hl.goes s.scanOccasion_issues.issues ⟨by simp, by simp⟩ areas.config areas.image areas.configuring).placementLaw.settle
  | trigger source =>
    have hrunning : s.eng.engine = .running := source.elim he.1 (·.1)
    obtain ⟨length, hl⟩ := laid (by rw [hrunning]; exact ⟨nofun, nofun⟩)
    have areas : s.KeepsAreas s.trigger := .of_frame (by simp) (by simp) (by simp)
    exact (hl.goes s.trigger_issues ⟨by simp, by simp⟩ areas.config areas.image areas.configuring).placementLaw.settle
  | heldAgain x e held stage pass =>
    obtain ⟨length, hl⟩ := laid (by rcases he.2.1 pass with h | h <;> rw [h] <;> exact ⟨nofun, nofun⟩)
    have areas : s.KeepsAreas { s with rqh := { s.rqh with held := some { x with stage := .awaitApply e false } } } :=
      .of_stage rfl rfl fun y hy => by cases hy; exact ⟨nofun, nofun⟩
    exact (hl.goes (u := { s with rqh := { s.rqh with held := some { x with stage := .awaitApply e false } } }) (.refl _)
      ⟨rfl, rfl⟩ areas.config areas.image areas.configuring).placementLaw
  | applied x e held stage pass =>
    have hengine : s.eng.engine ≠ .detached ∧ s.eng.engine ≠ .attaching := by
      rcases s.engineLaw_cases he with h | h | h | h
      · exact active h
      · exact nomatch h.held.symm.trans held
      · rw [h.engine]; exact ⟨nofun, nofun⟩
      · rw [h.engine]; exact ⟨nofun, nofun⟩
    obtain ⟨length, hl⟩ := laid hengine
    have areas : s.KeepsAreas (s.applyNow x e) :=
      (State.takeEdit_areas x e).trans (.of_frame (by simp [State.applyNow]) (by simp [State.applyNow]) (by simp [State.applyNow]))
    have applied := hl.goes (State.applyNow_issues x e).issues ⟨by simp, by simp⟩ areas.config areas.image areas.configuring
    unfold State.settleTogether
    split
    · exact (State.placementLaw.settle (State.Laid.placementLaw ⟨applied.wbase, applied.waits, applied.window, applied.placed,
        applied.image, applied.fits⟩))
    · exact applied.placementLaw.settle
  | answered a o u awaited work =>
    obtain ⟨hin, hmark, ho⟩ := State.awaited_eq_some.1 awaited
    rcases s.engineLaw_inFlight he hin hmark with ⟨h, c, hc⟩ | ⟨h, hc⟩ | ⟨h, hc, hattaching, hwait⟩
    · obtain rfl := hc.symm.trans ho
      obtain ⟨length, hl⟩ := laid (active h)
      exact (work.laid hl).placementLaw.settle
    · obtain rfl := hc.symm.trans ho
      obtain ⟨length, hl⟩ := laid (by rw [h.engine]; exact ⟨nofun, nofun⟩)
      exact (work.laid hl).placementLaw.settle
    · obtain rfl := hc.symm.trans ho
      obtain ⟨hwbase, -, -, hareas⟩ := (State.placementLaw_iff s).1 hs
      cases work with
      | attachWord w =>
        have hend : (s.readDone a w).Unbound := h.ended rfl rfl rfl rfl rfl
        unfold State.attachWordRead
        dsimp only
        split
        · refine State.Unbound.settle_placementLaw ⟨hend.engine, hend.entry, hend.idle, hend.held, hend.config, hend.waitRqh,
            hend.client, fun b hb => ?_, fun b hb => nomatch hb⟩ hwbase hareas rfl
          cases hb
          exact ⟨rfl, hattaching⟩
        · split
          · exact (hend.attachFailed rfl hwait _).settle_placementLaw hwbase hareas rfl
          next hfault =>
            have hlength := attachFault_length hfault
            refine State.placementLaw.settle ((State.placementLaw_iff _).2 ⟨hwbase,
              State.waitsAdmitted_of_none hwait fun c => hend.waiting c, fun _ _ => nofun, fun length hl => ?_⟩)
            cases hl
            refine ⟨?_, fun n hn => ?_, fun c hc => ?_⟩
            · unfold State.placed
              simpa [State.attached, h.config, Config.controlBlockBytes] using hlength
            · obtain ⟨x, b, hx, -⟩ := hn
              exact nomatch h.held.symm.trans hx
            · have hnone : s.rqh.configuring = none :=
                Rqh.configuring_eq_none fun x _ _ _ hx => nomatch h.held.symm.trans hx
              exact nomatch hnone.symm.trans hc
  | failed a kind hin hmark =>
    have frame : (s.failDone a).eng = s.eng ∧ (s.failDone a).rqh = s.rqh ∧ (s.failDone a).clb = s.clb
        ∧ (s.failDone a).bip = s.bip.ended := by simp
    obtain ⟨feng, frqh, fclb, fbip⟩ := frame
    have done {length : Nat} (hl : s.Laid length) : (s.failDone a).Laid length := by
      have areas : s.KeepsAreas (s.failDone a) := .of_frame feng frqh fclb
      exact hl.ended.goes (.of_eq fbip) ⟨by rw [feng], by rw [feng]⟩ areas.config areas.image areas.configuring
    rcases s.engineLaw_inFlight he hin hmark with ⟨h, c, hc⟩ | ⟨h, hc⟩ | ⟨h, hc, hattaching, hwait⟩
    · obtain ⟨length, hl⟩ := laid (active h)
      exact ((done hl).accessFailed hc kind).placementLaw.settle
    · obtain ⟨length, hl⟩ := laid (by rw [h.engine]; exact ⟨nofun, nofun⟩)
      exact ((done hl).accessFailed hc kind).placementLaw.settle
    · obtain ⟨hwbase, -, -, hareas⟩ := (State.placementLaw_iff s).1 hs
      have hend : (s.failDone a).Unbound := h.ended (by simp) (by simp) (by simp) (by simp) (by simp)
      have hfail : (s.failDone a).accessFailed kind a = (s.failDone a).attachFailed .busError := by
        unfold State.accessFailed
        rw [hc]
      have hun := hend.attachFailed (by simp [Bip.ended]) (by simpa [Bip.ended] using hwait) .busError
      rw [hfail]
      refine hun.settle_placementLaw ?_ (hun.areasLaw (s := s) h.config ?_ hareas) (by simp [Bip.ended])
      · show (s.failDone a).eng.wbaseLaw
        rw [feng]
        exact hwbase
      · show (s.failDone a).eng.windowLength = _
        rw [feng]
  | disregarded a u hin hmark ended =>
    have frame : u.eng = s.eng ∧ u.rqh = s.rqh ∧ u.clb = s.clb ∧ u.bip = s.bip.ended := by
      rcases ended with rfl | rfl
      · exact ⟨rfl, rfl, rfl, rfl⟩
      · simp
    obtain ⟨heng, hrqh, hclb, hbip⟩ := frame
    obtain ⟨hwbase, hwaits, hbound, hareas⟩ := (State.placementLaw_iff s).1 hs
    have hended : ({ s with bip := s.bip.ended } : State).placementLaw :=
      (State.placementLaw_iff _).2 ⟨hwbase, (State.ended_waitsAdmitted (s := s) (t := { s with bip := s.bip.ended }) rfl rfl rfl).trans hwaits, hbound, hareas⟩
    exact (State.placementLaw_congr hended (by rw [heng]) (by rw [heng]) (by rw [heng]) (by rw [hrqh]) hclb hbip
      fun hd ha => by rw [heng] at hd ha; exact ⟨hd, ha⟩).settle

end

/-- Settles O59: the law of placement is kept, and gives the premises of the waiting accesses and the areas. -/
theorem placementLawIsKept : Obligations.PlacementLawIsKept := by
  refine ⟨fun s t hstep he hs => ?_, fun s hs => ⟨hs.2.1, fun hd ha => ?_⟩⟩
  · rcases step_takes hstep with rfl | ⟨rest, h⟩
    · exact hs
    · exact h.placementLaw he hs
  · obtain ⟨length, hl⟩ := hs.laid hd ha
    exact hl.placed

end Sys2Proof.Machine

/-! What each command does in the stage it belongs to, and the statements about steps, power-on and the commands written to CMD. -/
namespace Sys2Proof.Machine

/-! ### The answers, each in the stage of its access -/

section
variable {s : State}

theorem exec_startStampReadAnswer (stage : s.pse.pass = some .startStamp) (answer : ReadAnswer) :
    exec (.startStampReadAnswer answer) s = .next (s.onRead (.client .pse) answer State.startStampRead) := by
  simp only [exec, execStartStampReadAnswer, stage]

theorem exec_unconfirmedBankReadAnswer (stage : s.pse.pass = some .unconfirmedRead) (answer : ReadAnswer) :
    exec (.unconfirmedBankReadAnswer answer) s = .next (s.onRead (.client .pse) answer State.unconfirmedRead) := by
  simp only [exec, execUnconfirmedBankReadAnswer, stage]

theorem exec_publicationWordWriteAnswer (stage : s.pse.pass = some .publicationWrite) (answer : WriteAnswer) :
    exec (.publicationWordWriteAnswer answer) s = .next (s.onWrite (.client .pse) answer State.publish) := by
  simp only [exec, execPublicationWordWriteAnswer, stage]

theorem exec_configurePublicationWriteAnswer {h : Held} {c : Configuration} {had : Bool} {old : Word}
    (held : s.rqh.held = some h) (stage : h.stage = .configureWrite c had old) (answer : WriteAnswer) :
    exec (.configurePublicationWriteAnswer answer) s
      = .next (s.onWrite (.client .pse) answer fun s => s.configureStored h c had old) := by
  obtain ⟨slot, kind, ticket, params, _⟩ := h
  obtain rfl := stage
  simp only [exec, execConfigurePublicationWriteAnswer, held]

section
variable {c : Configuration} (config : s.eng.config = some c)
include config

theorem exec_holdWordReadAnswer (stage : s.pse.pass = some .holdRead) (answer : ReadAnswer) :
    exec (.holdWordReadAnswer answer) s = .next (s.onRead (.client .pse) answer fun s w => s.holdRead c w) := by
  simp only [exec, execHoldWordReadAnswer, stage, config]

theorem exec_fillingHeaderWriteAnswer {k : Fin 4} (stage : s.pse.pass = some (.fillingHeader k)) (answer : WriteAnswer) :
    exec (.fillingHeaderWriteAnswer answer) s
      = .next (s.onWrite (.client .pse) answer fun s => s.fillingWritten c k) := by
  simp only [exec, execFillingHeaderWriteAnswer, stage, config]

theorem exec_inputReadAnswer {i : Fin 256} (stage : s.pse.pass = some (.inputRead i)) (answer : ReadAnswer) :
    exec (.inputReadAnswer answer) s = .next (s.onRead (.client .pse) answer fun s w => s.inputRead c i w) := by
  simp only [exec, execInputReadAnswer, stage, config]

theorem exec_entryWriteAnswer_value {i : Fin 256} {v qz : Word} (stage : s.pse.pass = some (.entryValue i v qz))
    (answer : WriteAnswer) :
    exec (.entryWriteAnswer answer) s
      = .next (s.onWrite (.client .pse) answer fun s => s.entryValueWritten c i v qz) := by
  simp only [exec, execEntryWriteAnswer, stage, config]

theorem exec_entryWriteAnswer_quality {i : Fin 256} {v qz : Word} (stage : s.pse.pass = some (.entryQuality i v qz))
    (answer : WriteAnswer) :
    exec (.entryWriteAnswer answer) s = .next (s.onWrite (.client .pse) answer fun s => s.entryWritten c i v qz) := by
  simp only [exec, execEntryWriteAnswer, stage, config]

theorem exec_endStampReadAnswer (stage : s.pse.pass = some .endStamp) (answer : ReadAnswer) :
    exec (.endStampReadAnswer answer) s = .next (s.onRead (.client .pse) answer fun s w => s.endStampRead c w) := by
  simp only [exec, execEndStampReadAnswer, stage, config]

theorem exec_completeHeaderWriteAnswer {k : Fin 4} (stage : s.pse.pass = some (.completeHeader k))
    (answer : WriteAnswer) :
    exec (.completeHeaderWriteAnswer answer) s
      = .next (s.onWrite (.client .pse) answer fun s => s.completeWritten c k) := by
  simp only [exec, execCompleteHeaderWriteAnswer, stage, config]

theorem exec_ackWordReadAnswer {lostFirst : Bool} {e : Event} (work : s.evr.work = .readingAck lostFirst e)
    (answer : ReadAnswer) :
    exec (.ackWordReadAnswer answer) s
      = .next (s.onRead (.client .evr) answer fun s w => s.ackWordRead c lostFirst e w) := by
  simp only [exec, execAckWordReadAnswer, work, config]

/-- The first three words of a record are each followed by the next one (R135). -/
theorem exec_recordWordWriteAnswer_step {seq : Word} {e : Event} {behind : Option Event} (k : Fin 3)
    (work : s.evr.work = .writing seq e (k.castLE (by decide)) behind) (answer : WriteAnswer) :
    exec (.recordWordWriteAnswer answer) s
      = .next (s.onWrite (.client .evr) answer fun s => s.recordStep c seq e (k.succ.castLE (by decide)) behind) := by
  fin_cases k <;> simp only [exec, execRecordWordWriteAnswer, config, work] <;> rfl

theorem exec_recordWordWriteAnswer_number {seq : Word} {e : Event} {behind : Option Event}
    (work : s.evr.work = .writing seq e 3 behind) (answer : WriteAnswer) :
    exec (.recordWordWriteAnswer answer) s = .next (s.onWrite (.client .evr) answer fun s =>
      ({ s with evr := s.evr.recordWritten seq e } : State).recordStep c seq e 4 behind) := by
  simp only [exec, execRecordWordWriteAnswer, config, work]

theorem exec_highWaterWriteAnswer {seq : Word} {e : Event} {behind : Option Event}
    (work : s.evr.work = .writing seq e 4 behind) (answer : WriteAnswer) :
    exec (.highWaterWriteAnswer answer) s = .next (s.onWrite (.client .evr) answer fun s => s.recordFinished c behind) := by
  simp only [exec, execHighWaterWriteAnswer, config, work]

end

theorem exec_scanReadAnswer {k : Fin 16} {heads : Vector Word 16} (scan : s.rqh.scan = some (.reading k heads))
    (answer : ReadAnswer) :
    exec (.scanReadAnswer answer) s = .next (s.onRead (.client .rqh) answer fun s w => s.slotRead k heads w) := by
  simp only [exec, execScanReadAnswer, scan]

theorem exec_staleRefusalWriteAnswer {heads : Vector Word 16} {b : Fin 16} {k : Fin 8}
    (scan : s.rqh.scan = some (.staleWrite heads b k)) (answer : WriteAnswer) :
    exec (.staleRefusalWriteAnswer answer) s
      = .next (s.onWrite (.client .rqh) answer fun s => s.staleWritten heads b k) := by
  simp only [exec, execStaleRefusalWriteAnswer, scan]

theorem exec_parameterReadAnswer {b : Fin 16} {head : Word} {k : Fin 8} {params : Vector Word 8}
    (scan : s.rqh.scan = some (.paramRead b head k params)) (answer : ReadAnswer) :
    exec (.parameterReadAnswer answer) s
      = .next (s.onRead (.client .rqh) answer fun s w => s.parameterRead b head k params w) := by
  simp only [exec, execParameterReadAnswer, scan]

theorem exec_takenWriteAnswer {b : Fin 16} {head : Word} {params : Vector Word 8}
    (scan : s.rqh.scan = some (.takenWrite b head params)) (answer : WriteAnswer) :
    exec (.takenWriteAnswer answer) s
      = .next (s.onWrite (.client .rqh) answer fun s => s.requestTaken b head params) := by
  simp only [exec, execTakenWriteAnswer, scan]

theorem exec_imageReadAnswer {h : Held} {b : Building} (held : s.rqh.held = some h) (stage : h.stage = .imageRead)
    (building : s.clb.building = some b) (answer : ReadAnswer) :
    exec (.imageReadAnswer answer) s = .next (s.onRead (.client .rqh) answer fun s w => s.imageWordRead h b w) := by
  obtain ⟨slot, kind, ticket, params, _⟩ := h
  obtain rfl := stage
  simp only [exec, execImageReadAnswer, held, building]

theorem exec_finishingWriteAnswer {h : Held} {code : ResultCode} {results : Vector Word 6} {k : Fin 8}
    (held : s.rqh.held = some h) (stage : h.stage = .finishing code results k) (answer : WriteAnswer) :
    exec (.finishingWriteAnswer answer) s
      = .next (s.onWrite (.client .rqh) answer fun s => s.finishingWritten h code results k) := by
  obtain ⟨slot, kind, ticket, params, _⟩ := h
  obtain rfl := stage
  simp only [exec, execFinishingWriteAnswer, held]

theorem exec_abandonWriteAnswer {h : Held} {word0 : Bool} (held : s.rqh.held = some h)
    (stage : h.stage = .abandonWrite word0) (answer : WriteAnswer) :
    exec (.abandonWriteAnswer answer) s
      = .next (s.onWrite (.client .rqh) answer fun s => s.abandonWritten h word0) := by
  obtain ⟨slot, kind, ticket, params, _⟩ := h
  obtain rfl := stage
  simp only [exec, execAbandonWriteAnswer, held]

end

/-! ### Every command completes -/

theorem exec_next (c : Instr) (s : State) : ∃ t, exec c s = .next t := by
  cases c <;> exact ⟨_, rfl⟩

theorem State.configureEffect_pending (s : State) (h : Held) (c : Configuration) :
    (s.configureEffect h c).pending = s.pending := by simp

theorem State.ClientWork.pending {s u : State} {a : Access} {o : Owner} (h : s.ClientWork a o u) :
    u.pending = s.pending := by
  cases h <;> simp [State.takeComplete]

/-- No command touches the queue. -/
theorem State.Takes.pending {s t : State} (h : s.Takes t) : t.pending = s.pending := by
  cases h with
  | powerOn => rfl
  | engineReset => rfl
  | detach => rfl
  | answered a o u awaited work => simpa using work.pending
  | disregarded a u inFlight mark ended => rcases ended with rfl | rfl <;> simp
  | _ => simp

theorem step_next (s : State) : ∃ t, step s = .next t := by
  unfold step
  split
  · exact ⟨s, rfl⟩
  · exact exec_next _ _

section
variable {s : State}

/-- An answer in whose stage nobody awaits it. -/
theorem State.awaited_of_notHappening {i : Instr} {o : Owner} (answers : s.answerer i = some o)
    (fails : (answerFails i).isSome = true) (hn : s.notHappening i = true) : s.awaited o = none := by
  have hall : (s.answerer i).all (fun o => (s.awaited o).isNone) = true := by
    unfold State.notHappening at hn
    split at hn
    case h_5 => exact (Bool.and_eq_true_iff.1 hn).2
    all_goals cases fails
  rw [answers] at hall
  exact Option.isNone_iff_eq_none.1 hall

theorem exec_passRead_of_notHappening {i : Instr} (answer : ReadAnswer)
    (h : i = .attachReadAnswer answer ∨ i = .startStampReadAnswer answer ∨ i = .unconfirmedBankReadAnswer answer
      ∨ i = .holdWordReadAnswer answer ∨ i = .inputReadAnswer answer ∨ i = .endStampReadAnswer answer)
    (hn : s.notHappening i = true) : exec i s = .next s := by
  rcases h with rfl | rfl | rfl | rfl | rfl | rfl
  · exact congrArg _ (State.onRead_none (State.awaited_of_notHappening rfl rfl hn))
  all_goals
    refine congrArg Host.Outcome.next ?_
    split
  next stage => exact State.onRead_none (State.awaited_of_notHappening (by simp [State.answerer, stage]) rfl hn)
  · rfl
  next stage => exact State.onRead_none (State.awaited_of_notHappening (by simp [State.answerer, stage]) rfl hn)
  · rfl
  next stage config => exact State.onRead_none (State.awaited_of_notHappening (by simp [State.answerer, stage, config]) rfl hn)
  · rfl
  next stage config => exact State.onRead_none (State.awaited_of_notHappening (by simp [State.answerer, stage, config]) rfl hn)
  · rfl
  next stage config => exact State.onRead_none (State.awaited_of_notHappening (by simp [State.answerer, stage, config]) rfl hn)
  · rfl

theorem exec_passWrite_of_notHappening {i : Instr} (answer : WriteAnswer)
    (h : i = .fillingHeaderWriteAnswer answer ∨ i = .entryWriteAnswer answer ∨ i = .completeHeaderWriteAnswer answer
      ∨ i = .publicationWordWriteAnswer answer ∨ i = .configurePublicationWriteAnswer answer)
    (hn : s.notHappening i = true) : exec i s = .next s := by
  rcases h with rfl | rfl | rfl | rfl | rfl
  all_goals
    refine congrArg Host.Outcome.next ?_
    split
  next stage config => exact State.onWrite_none (State.awaited_of_notHappening (by simp [State.answerer, stage, config]) rfl hn)
  · rfl
  next stage config => exact State.onWrite_none (State.awaited_of_notHappening (by simp [State.answerer, stage, config]) rfl hn)
  next stage config => exact State.onWrite_none (State.awaited_of_notHappening (by simp [State.answerer, stage, config]) rfl hn)
  · rfl
  next stage config => exact State.onWrite_none (State.awaited_of_notHappening (by simp [State.answerer, stage, config]) rfl hn)
  · rfl
  next stage => exact State.onWrite_none (State.awaited_of_notHappening (by simp [State.answerer, stage]) rfl hn)
  · rfl
  next held => exact State.onWrite_none (State.awaited_of_notHappening (by simp [State.answerer, held]) rfl hn)
  · rfl

theorem exec_requestRead_of_notHappening {i : Instr} (answer : ReadAnswer)
    (h : i = .scanReadAnswer answer ∨ i = .parameterReadAnswer answer ∨ i = .imageReadAnswer answer)
    (hn : s.notHappening i = true) : exec i s = .next s := by
  rcases h with rfl | rfl | rfl
  all_goals
    refine congrArg Host.Outcome.next ?_
    split
  next scan => exact State.onRead_none (State.awaited_of_notHappening (by simp [State.answerer, scan]) rfl hn)
  · rfl
  next scan => exact State.onRead_none (State.awaited_of_notHappening (by simp [State.answerer, scan]) rfl hn)
  · rfl
  next held building => exact State.onRead_none (State.awaited_of_notHappening (by simp [State.answerer, held, building]) rfl hn)
  · rfl

theorem exec_requestWrite_of_notHappening {i : Instr} (answer : WriteAnswer)
    (h : i = .staleRefusalWriteAnswer answer ∨ i = .takenWriteAnswer answer ∨ i = .lastTakenTicketWriteAnswer answer
      ∨ i = .finishingWriteAnswer answer ∨ i = .abandonWriteAnswer answer)
    (hn : s.notHappening i = true) : exec i s = .next s := by
  rcases h with rfl | rfl | rfl | rfl | rfl
  all_goals
    refine congrArg Host.Outcome.next ?_
    split
  next scan => exact State.onWrite_none (State.awaited_of_notHappening (by simp [State.answerer, scan]) rfl hn)
  · rfl
  next scan => exact State.onWrite_none (State.awaited_of_notHappening (by simp [State.answerer, scan]) rfl hn)
  · rfl
  next scan held => exact State.onWrite_none (State.awaited_of_notHappening (by simp [State.answerer, scan, held]) rfl hn)
  · rfl
  next held => exact State.onWrite_none (State.awaited_of_notHappening (by simp [State.answerer, held]) rfl hn)
  · rfl
  next held => exact State.onWrite_none (State.awaited_of_notHappening (by simp [State.answerer, held]) rfl hn)
  · rfl

theorem exec_ackWordReadAnswer_of_notHappening {answer : ReadAnswer} (hn : s.notHappening (.ackWordReadAnswer answer) = true) :
    exec (.ackWordReadAnswer answer) s = .next s := by
  refine congrArg Host.Outcome.next ?_
  split
  next work config => exact State.onRead_none (State.awaited_of_notHappening (by simp [State.answerer, work, config]) rfl hn)
  · rfl

theorem exec_recordWrite_of_notHappening {i : Instr} (answer : WriteAnswer)
    (h : i = .recordWordWriteAnswer answer ∨ i = .highWaterWriteAnswer answer) (hn : s.notHappening i = true) :
    exec i s = .next s := by
  rcases h with rfl | rfl
  all_goals
    refine congrArg Host.Outcome.next ?_
    split
  next work config => exact State.onWrite_none (State.awaited_of_notHappening (by simp [State.answerer, work, config]) rfl hn)
  next work config => exact State.onWrite_none (State.awaited_of_notHappening (by simp [State.answerer, work, config]) rfl hn)
  next work config => exact State.onWrite_none (State.awaited_of_notHappening (by simp [State.answerer, work, config]) rfl hn)
  next work config => exact State.onWrite_none (State.awaited_of_notHappening (by simp [State.answerer, work, config]) rfl hn)
  · rfl
  next work config => exact State.onWrite_none (State.awaited_of_notHappening (by simp [State.answerer, work, config]) rfl hn)
  · rfl

theorem exec_event_of_notHappening {i : Instr}
    (h : i = .passTimerExpiry ∨ i = .busTimeout ∨ (∃ how, i = .disregardedAccessEnd how) ∨ i = .releasedApplyStep)
    (hn : s.notHappening i = true) : exec i s = .next s := by
  rcases h with rfl | rfl | ⟨how, rfl⟩ | rfl <;> refine congrArg Host.Outcome.next ?_
  · rw [Option.isNone_iff_eq_none.1 hn]
  · unfold State.timeout
    rw [Option.isNone_iff_eq_none.1 hn]
  · have hend : s.bip.inFlight = none ∨ s.bip.disregard = false := by simpa [State.notHappening] using hn
    unfold State.disregardedEnd
    split
    · rfl
    next hin =>
      rcases hend with h | h
      · cases hin.symm.trans h
      · rw [h]
        rfl
  · split
    next held =>
      unfold State.notHappening at hn
      rw [held] at hn
      cases hn
    · rfl

theorem exec_of_notHappening {i : Instr} (hn : s.notHappening i = true) : exec i s = .next s := by
  cases i with
  | passTimerExpiry => exact exec_event_of_notHappening (.inl rfl) hn
  | busTimeout => exact exec_event_of_notHappening (.inr (.inl rfl)) hn
  | disregardedAccessEnd how => exact exec_event_of_notHappening (.inr (.inr (.inl ⟨how, rfl⟩))) hn
  | releasedApplyStep => exact exec_event_of_notHappening (.inr (.inr (.inr rfl))) hn
  | attachReadAnswer a | startStampReadAnswer a | unconfirmedBankReadAnswer a | holdWordReadAnswer a | inputReadAnswer a
  | endStampReadAnswer a => exact exec_passRead_of_notHappening a (by simp) hn
  | fillingHeaderWriteAnswer a | entryWriteAnswer a | completeHeaderWriteAnswer a | publicationWordWriteAnswer a
  | configurePublicationWriteAnswer a => exact exec_passWrite_of_notHappening a (by simp) hn
  | scanReadAnswer a | parameterReadAnswer a | imageReadAnswer a => exact exec_requestRead_of_notHappening a (by simp) hn
  | staleRefusalWriteAnswer a | takenWriteAnswer a | lastTakenTicketWriteAnswer a | finishingWriteAnswer a
  | abandonWriteAnswer a => exact exec_requestWrite_of_notHappening a (by simp) hn
  | ackWordReadAnswer a => exact exec_ackWordReadAnswer_of_notHappening hn
  | recordWordWriteAnswer a | highWaterWriteAnswer a => exact exec_recordWrite_of_notHappening a (by simp) hn
  | _ => cases hn

end

/-- Settles O1: by the definition of a step. -/
theorem stepRunsTheFrontCommand : Obligations.StepRunsTheFrontCommand := fun _ _ _ => rfl

/-- Settles O2: every command is one of the ways `State.Takes` lists, and none of them touches the queue. -/
theorem everyCommandCompletes : Obligations.EveryCommandCompletes := by
  refine ⟨fun c s => ?_, step_next, fun s hs => ?_, fun c s => exec_of_notHappening⟩
  · obtain ⟨t, ht⟩ := exec_next c s
    exact ⟨t, ht, (exec_takes ht).pending⟩
  · unfold step
    rw [hs]

/-! ### Power-on -/

/-- Settles O3: each block's power-on value, read off. -/
theorem resetHoldsThePowerOnValues : Obligations.ResetHoldsThePowerOnValues := by
  unfold Obligations.ResetHoldsThePowerOnValues
  dsimp only
  refine ⟨?_, ?_, ⟨fun c => ?_, rfl, rfl⟩, fun i => ?_, fun z => ?_, fun i => ?_, ?_, ?_, ?_⟩
  · exact ⟨rfl, rfl, rfl, rfl, rfl, rfl, rfl, rfl, rfl, rfl, rfl, rfl⟩
  · exact ⟨rfl, rfl, rfl, rfl, rfl, rfl, rfl, rfl⟩
  · simp [State.reset, Clb.powerOn, CurveSlot.empty]
  · simp [State.reset, Ptb.powerOn, Point.unused]
  · simp [State.reset, Zsv.powerOn, ZoneSet.unwritten]
  · simp [State.reset, Zsv.powerOn, PointZone.unsupervised]
  · exact ⟨rfl, rfl, rfl, rfl, rfl, rfl, rfl, rfl, rfl, rfl, rfl, rfl, rfl, rfl, rfl⟩
  · exact ⟨rfl, rfl, rfl, rfl, rfl, rfl, rfl⟩
  · exact ⟨rfl, rfl, rfl, rfl, rfl, rfl⟩

theorem State.powerOn_eq_of_interrupted {s : State} {a : Access} (hin : s.bip.inFlight = some a) :
    s.powerOn = { State.reset with
      window := (s.interruptedAccess a).window, freeIndex := (s.interruptedAccess a).freeIndex, pending := s.pending } := by
  unfold State.powerOn
  rw [hin]

/-- Settles O4: by the access that RSTN interrupts, whose write may have landed (`State.mayLand_eq`). -/
theorem powerOnRestoresThePowerOnValues : Obligations.PowerOnRestoresThePowerOnValues := by
  refine fun s => ⟨fun hread => congrArg Host.Outcome.next ?_, fun a w hin hw => ?_⟩
  · cases hin : s.bip.inFlight with
    | none =>
      unfold State.powerOn
      rw [hin]
    | some a =>
      rw [State.powerOn_eq_of_interrupted hin]
      unfold State.interruptedAccess
      rw [hread a hin]
      rfl
  · have hpower := State.powerOn_eq_of_interrupted hin
    unfold State.interruptedAccess at hpower
    rw [hw] at hpower
    dsimp only at hpower
    rcases s.mayLand_eq a.offset w with h | h <;> rw [h] at hpower
    · exact .inl (congrArg _ hpower)
    · exact .inr (congrArg _ hpower)

/-! ### The commands written to CMD -/

/-- Settles O5: the attach read at offset 0 is the next access and passes the comparison. -/
theorem attachBegins : Obligations.AttachBegins := by
  intro s u hengine hbase
  have htake : s.takeAttach = (({ s with
      eng := { s.eng with engine := .attaching, attachReason := .none, attachWords := [] } } : State).issueAttachRead
        0).settle := by
    unfold State.takeAttach
    rw [hengine]
  refine congrArg Host.Outcome.next (htake.trans (State.settle_of_next fun a _ hn => ?_))
  obtain rfl := Option.some.inj hn
  have := s.eng.wbase.isLt
  unfold Eng.wbaseLaw at hbase
  simp only [State.admits, State.issueAttachRead_frame]
  exact decide_eq_true (by omega)

/-- Settles O8: each command in the engine state that accepts it. -/
theorem runStopAndClear : Obligations.RunStopAndClear := by
  refine fun s u => ⟨fun c hengine hconfig hnumber => congrArg Host.Outcome.next ?_,
    fun hengine => congrArg Host.Outcome.next ?_, fun hengine hentry => congrArg Host.Outcome.next ?_⟩
  · have htimer : c.startedTimer = if c.mode = .command then none else some c.period := by
      unfold Configuration.startedTimer
      cases c.mode <;> rfl
    simp only [State.takeRun, hengine, hconfig, htimer]
    exact if_neg hnumber
  · simp only [State.takeStop, hengine, Option.isNone_iff_eq_none]
  · simp only [State.takeClear, hengine, hentry]
    rfl

end Sys2Proof.Machine

/-! The commands turned away, the register window, and the laws after power-on. -/
namespace Sys2Proof.Machine

/-! ### The words written to CMD -/

/-- The command of a word, by the code in its lowest eight bits. -/
theorem Instr.ofCommandWord_of_code (w : Word) :
    let code := w.toNat % 256
    let upper : BitVec 24 := w.extractLsb' 8 24
    (code = 1 → Instr.ofCommandWord w = .attach upper) ∧ (code = 2 → Instr.ofCommandWord w = .detach upper)
    ∧ (code = 3 → Instr.ofCommandWord w = .run upper) ∧ (code = 4 → Instr.ofCommandWord w = .stop upper)
    ∧ (code = 5 → Instr.ofCommandWord w = .attend upper) ∧ (code = 6 → Instr.ofCommandWord w = .pass upper)
    ∧ (code = 7 → Instr.ofCommandWord w = .clear upper) ∧ (code = 8 → Instr.ofCommandWord w = .engineReset upper) := by
  refine ⟨?_, ?_, ?_, ?_, ?_, ?_, ?_, ?_⟩
  all_goals
    intro hcode
    simp only [Instr.ofCommandWord, hcode]

theorem Instr.ofCommandWord_of_unknown {w : Word} (hcode : w.toNat % 256 = 0 ∨ 9 ≤ w.toNat % 256) :
    Instr.ofCommandWord w = .unknownCommandCode w := by
  unfold Instr.ofCommandWord
  dsimp only
  generalize w.toNat % 256 = code at hcode
  split
  case h_9 => rfl
  all_goals omega

theorem Instr.ofCommandWord_cases (w : Word) :
    ((w.toNat % 256 = 0 ∨ 9 ≤ w.toNat % 256) ∧ Instr.ofCommandWord w = .unknownCommandCode w)
    ∨ ∃ u, Instr.ofCommandWord w = .attach u ∨ Instr.ofCommandWord w = .detach u ∨ Instr.ofCommandWord w = .run u
      ∨ Instr.ofCommandWord w = .stop u ∨ Instr.ofCommandWord w = .attend u ∨ Instr.ofCommandWord w = .pass u
      ∨ Instr.ofCommandWord w = .clear u ∨ Instr.ofCommandWord w = .engineReset u := by
  by_cases hcode : w.toNat % 256 = 0 ∨ 9 ≤ w.toNat % 256
  · exact .inl ⟨hcode, Instr.ofCommandWord_of_unknown hcode⟩
  · obtain ⟨h1, h2, h3, h4, h5, h6, h7, h8⟩ := Instr.ofCommandWord_of_code w
    have hknown : w.toNat % 256 = 1 ∨ w.toNat % 256 = 2 ∨ w.toNat % 256 = 3 ∨ w.toNat % 256 = 4 ∨ w.toNat % 256 = 5
        ∨ w.toNat % 256 = 6 ∨ w.toNat % 256 = 7 ∨ w.toNat % 256 = 8 := by
      generalize w.toNat % 256 = code at hcode ⊢
      omega
    exact .inr ⟨_, hknown.imp h1 <| .imp h2 <| .imp h3 <| .imp h4 <| .imp h5 <| .imp h6 <| .imp h7 h8⟩

theorem Instr.ofCommandWord_wellFormed (w : Word) : (Instr.ofCommandWord w).wellFormed = true := by
  rcases Instr.ofCommandWord_cases w with ⟨hcode, h⟩ | ⟨u, h | h | h | h | h | h | h | h⟩ <;> rw [h]
  · exact Bool.or_eq_true_iff.2 (hcode.imp beq_iff_eq.2 decide_eq_true)
  all_goals rfl

/-- A word has its own command's effect where the row of the unknown codes carries it. -/
theorem exec_unknownCommandCode (w : Word) (s : State) : exec (.unknownCommandCode w) s = exec (.ofCommandWord w) s := by
  refine (show _ = Host.Outcome.next (s.takeCommandWord w) from rfl).trans ?_
  rcases Instr.ofCommandWord_cases w with ⟨-, h⟩ | ⟨u, h | h | h | h | h | h | h | h⟩
  · rw [h]
    rfl
  all_goals
    unfold State.takeCommandWord
    rw [h]
    rfl

theorem decodeTableWord_toNat (w : Word) : decodeTableWord 32 w.toNat = some (.ofCommandWord w) := by
  unfold decodeTableWord
  rw [if_pos (by decide), Nat.mod_eq_of_lt w.isLt, BitVec.ofNat_toNat, BitVec.setWidth_eq]

theorem State.registerWrite_of_register {s : State} {o : Nat} {w : Word} {c : Instr} (h : writeCommandAt o w = some c) :
    s.registerWrite o w = { s with pending := s.pending ++ [c] } := by
  unfold State.registerWrite
  rw [h]
  rfl

section
variable (s : State) (u : BitVec 24)

/-- The refusals of the commands that the engine state does not allow. -/
theorem State.take_refused :
    (s.eng.engine ≠ .detached → s.takeAttach = s.refuseCommand 1)
    ∧ (s.eng.engine ≠ .idle → s.takeDetach = s.refuseCommand 2)
    ∧ (s.eng.engine ≠ .running → s.takeStop = s.refuseCommand 4)
    ∧ (s.eng.engine = .detached ∨ s.eng.engine = .attaching ∨ s.eng.engine = .faulted →
      s.takeAttend = s.refuseCommand 5) := by
  unfold State.takeAttach State.takeDetach State.takeStop State.takeAttend
  cases s.eng.engine <;> simp

theorem State.takeRun_refused (h : s.eng.engine ≠ .idle ∨ s.eng.config = none ∨ s.pse.passNumber = 0xFFFFFFFF) :
    s.takeRun = s.refuseCommand 3 := by
  unfold State.takeRun
  split
  next c hengine hconfig =>
    rcases h with h | h | h
    · exact absurd hengine h
    · cases hconfig.symm.trans h
    · exact if_pos h
  all_goals rfl

theorem State.takePass_refused
    (h : s.eng.engine ≠ .running ∨ s.eng.config = none ∨ ∃ c, s.eng.config = some c ∧ c.mode = .timer) :
    s.takePass = s.refuseCommand 6 := by
  unfold State.takePass
  split
  next c hengine hconfig =>
    rcases h with h | h | ⟨c', hc', hmode⟩
    · exact absurd hengine h
    · cases hconfig.symm.trans h
    · obtain rfl := Option.some.inj (hconfig.symm.trans hc')
      unfold Configuration.takesPass
      rw [hmode]
      rfl
  all_goals rfl

theorem State.takeClear_refused (h : s.eng.engine ≠ .faulted ∨ s.eng.faultEntry = true) :
    s.takeClear = s.refuseCommand 7 := by
  unfold State.takeClear
  split
  next hengine => exact if_pos (h.resolve_left (not_not.2 hengine))
  all_goals rfl

end

/-- Settles O12: a word's command by its code, and each command's refusal. -/
theorem commandsNotAllowedAreRefused : Obligations.CommandsNotAllowedAreRefused := by
  refine ⟨fun w => ?_, fun s u => ?_⟩
  · obtain ⟨h1, h2, h3, h4, h5, h6, h7, h8⟩ := Instr.ofCommandWord_of_code w
    refine ⟨h1, h2, h3, h4, h5, h6, h7, h8, Instr.ofCommandWord_of_unknown, Instr.ofCommandWord_wellFormed w, fun s =>
      ⟨exec_unknownCommandCode w s, fun hempty => ?_, decodeTableWord_toNat w, ?_⟩⟩
    · rw [State.registerWrite_of_register (c := .ofCommandWord w) rfl, hempty]
      unfold step
      dsimp only [List.nil_append]
      rw [← hempty]
    · unfold State.withFetchWord
      rw [decodeTableWord_toNat]
      rfl
  · obtain ⟨hattach, hdetach, hstop, hattend⟩ := s.take_refused
    exact ⟨fun h => congrArg _ (hattach h), fun h => congrArg _ (hdetach h), fun h => congrArg _ (s.takeRun_refused h),
      fun h => congrArg _ (hstop h), fun h => congrArg _ (hattend h), fun h => congrArg _ (s.takePass_refused h),
      fun h => congrArg _ (s.takeClear_refused h), fun w h => by
        refine congrArg Host.Outcome.next ?_
        unfold State.takeCommandWord
        rw [Instr.ofCommandWord_of_unknown h]
        rfl⟩

/-! ### The register window -/

/-- Settles O13: the stored word is `wbase_stored`. -/
theorem wbaseWrite : Obligations.WbaseWrite := by
  refine fun s w => ⟨fun hengine => ?_, fun hengine => congrArg Host.Outcome.next ?_⟩
  · refine ⟨_, congrArg Host.Outcome.next (?_ : _ = { s with eng := { s.eng with wbase := w &&& 0xFFFFFFFC } }), rfl,
      wbase_stored w, rfl⟩
    rw [hengine]
  · split
    next h => exact absurd h hengine
    all_goals rfl

theorem State.intn_eq_false_iff (s : State) :
    s.intn = false ↔ ∃ i < 5, s.eng.cause.getLsbD i = true ∧ s.eng.mask.getLsbD i = true := by
  have hzero : s.intn = true ↔ ∀ i < 5, ¬(s.eng.cause.getLsbD i = true ∧ s.eng.mask.getLsbD i = true) := by
    unfold State.intn
    rw [beq_iff_eq]
    constructor
    · intro h i hi
      have hbit := congrArg (BitVec.getLsbD · i) h
      simpa using hbit
    · intro h
      refine BitVec.eq_of_getLsbD_eq fun i hi => ?_
      simpa using h i hi
  rw [← Bool.not_eq_true, hzero]
  push Not
  rfl

/-- Settles O14: bit by bit. -/
theorem causeMaskAndDisregardedWrites : Obligations.CauseMaskAndDisregardedWrites := by
  refine fun s w => ⟨⟨_, rfl, rfl, fun i hi => ?_⟩, ⟨_, rfl, rfl, fun i hi => ?_⟩, fun _ => rfl, s.intn_eq_false_iff⟩
  · simp [hi]
  · simp [hi]

theorem registerAt_eq_none {o : Nat} (h : ∀ k < 7, o ≠ 4 * k) : registerAt o = none := by
  unfold registerAt
  rw [List.find?_eq_none]
  intro r _ hr
  have ho := beq_iff_eq.1 hr
  cases r with
  | ident => exact h 0 (by decide) ho.symm
  | wbase => exact h 1 (by decide) ho.symm
  | cmd => exact h 2 (by decide) ho.symm
  | stat => exact h 3 (by decide) ho.symm
  | cause => exact h 4 (by decide) ho.symm
  | mask => exact h 5 (by decide) ho.symm
  | faddr => exact h 6 (by decide) ho.symm

/-- A code that fits its field stands in it. -/
theorem toNat_of_field {v : Word} {start len n : Nat} (h : v.extractLsb' start len = BitVec.ofNat len n) (hn : n < 2 ^ len) :
    (v.extractLsb' start len).toNat = n := by
  rw [h, BitVec.toNat_ofNat, Nat.mod_eq_of_lt hn]

theorem State.readRegister_faddr {s : State} :
    (s.eng.faultRecord = none → s.readRegister .faddr = 0)
    ∧ ∀ k c o, s.eng.faultRecord = some ⟨k, c, o⟩ → o < 2 ^ 32 → (s.readRegister .faddr).toNat = o := by
  unfold State.readRegister
  refine ⟨fun h => ?_, fun k c o h ho => ?_⟩
  · rw [h]
    rfl
  · rw [h]
    exact Nat.mod_eq_of_lt ho

theorem EngineState.code_lt (e : EngineState) : e.code < 2 ^ 3 := by cases e <;> decide

theorem FaultKind.code_lt (k : FaultKind) : k.code < 2 ^ 2 := by cases k <;> decide

theorem Client.code_lt (c : Client) : c.code < 2 ^ 2 := by cases c <;> decide

theorem AttachReason.code_lt (r : AttachReason) : r.code < 2 ^ 16 := by cases r <;> decide

theorem State.statHigh_of_unattached {s : State} (h : s.eng.engine = .detached ∨ s.eng.engine = .attaching) :
    s.statHigh = BitVec.ofNat 16 s.eng.attachReason.code := by
  unfold State.statHigh
  rcases h with h | h <;> rw [h]

theorem State.statHigh_of_attached {s : State} (hd : s.eng.engine ≠ .detached) (ha : s.eng.engine ≠ .attaching) :
    s.statHigh = s.rqh.expectedTicket := by
  unfold State.statHigh
  split
  next h => exact absurd h hd
  next h => exact absurd h ha
  all_goals rfl

/-- Settles O15: the fields of STAT are those of `State.statWord_fields`. -/
theorem registersShowTheirSources : Obligations.RegistersShowTheirSources := by
  refine ⟨⟨rfl, rfl, rfl, rfl⟩, ⟨rfl, rfl, rfl, rfl, rfl, rfl, rfl, fun o => registerAt_eq_none⟩,
    fun w => ⟨rfl, rfl, rfl, rfl, rfl, rfl, rfl⟩,
    fun s => ⟨fun o => rfl, fun o w c => State.registerWrite_of_register, fun o w => s.registerWrite_none o w, ?_⟩⟩
  obtain ⟨hengine, hentry, hwaiting, hinvalid, hsecond, hkind, hclient, hrefusal, hhigh⟩ := s.statWord_fields
  refine ⟨rfl, rfl, rfl, BitVec.toNat_setWidth_of_le (by decide), BitVec.toNat_setWidth_of_le (by decide),
    State.readRegister_faddr.1, State.readRegister_faddr.2, toNat_of_field hengine s.eng.engine.code_lt,
    getLsbD_of_field hentry, getLsbD_of_field hwaiting, getLsbD_of_field hinvalid, getLsbD_of_field hsecond, ?_, ?_, ?_,
    fun hd ha => hhigh.trans (State.statHigh_of_attached hd ha),
    fun h => toNat_of_field (hhigh.trans (State.statHigh_of_unattached h)) s.eng.attachReason.code_lt⟩
  · cases hr : s.eng.faultRecord with
    | none => rw [hr] at hkind; exact toNat_of_field hkind (by decide)
    | some r => rw [hr] at hkind; exact toNat_of_field hkind r.kind.code_lt
  · cases hr : s.eng.faultRecord with
    | none => rw [hr] at hclient; exact toNat_of_field hclient (by decide)
    | some r => rw [hr] at hclient; exact toNat_of_field hclient r.client.code_lt
  · show (s.statWord.extractLsb' 11 5).toNat = _
    rw [hrefusal]
    simp

/-! ### After power-on -/

theorem State.reset_held : State.reset.rqh.held = none := rfl

theorem State.reset_waitingEdit : State.reset.rqh.waitingEdit = none := rfl

theorem State.reset_config : State.reset.eng.config = none := rfl

theorem State.reset_pass : State.reset.pse.pass = none := rfl

theorem State.reset_engine : State.reset.eng.engine = .detached := rfl

theorem State.reset_publicationGuard : State.reset.publicationGuard := by
  have quiet (c : Client) (a : Access) : ¬State.reset.outstanding c a := by
    rintro (h | h)
    · cases c <;> cases h
    · cases h
  exact ⟨fun h => absurd rfl h, .inl rfl, fun a ha => absurd ha (quiet _ a), fun a _ ha => absurd ha (quiet _ a),
    fun a _ ha => absurd ha (quiet _ a), fun _ _ _ _ hh => (nomatch State.reset_held.symm.trans hh), rfl, rfl⟩

theorem State.reset_publicationLaw : State.reset.publicationLaw :=
  fun _ _ _ hc => (nomatch State.reset_config.symm.trans hc)

theorem State.reset_roomLaw : State.reset.roomLaw :=
  ⟨⟨rfl, rfl, rfl, rfl⟩, fun _ _ _ _ hh => (nomatch State.reset_held.symm.trans hh)⟩

theorem State.reset_placementLaw : State.reset.placementLaw :=
  State.placementLaw_of_unbound rfl rfl rfl (fun c => by cases c <;> rfl) rfl

theorem State.reset_numberLaw : State.reset.numberLaw :=
  ⟨fun h => (nomatch State.reset_pass.symm.trans h), fun _ h => h.elim (nomatch State.reset_engine.symm.trans ·) fun ht => absurd rfl ht⟩

theorem State.reset_pointLaw : State.reset.pointLaw :=
  ⟨Ptb.powerOn_legal, fun _ _ hw => (nomatch State.reset_waitingEdit.symm.trans hw),
    fun _ hc => (nomatch State.reset_config.symm.trans hc), fun _ _ _ _ hh => (nomatch State.reset_held.symm.trans hh)⟩

theorem State.reset_zoneLaw : State.reset.zoneLaw :=
  ⟨State.reset_zonesLegal.1, State.reset_zonesLegal.2, fun _ _ hw => (nomatch State.reset_waitingEdit.symm.trans hw),
    fun _ _ _ hw => (nomatch State.reset_waitingEdit.symm.trans hw)⟩

theorem Clb.powerOn_buildingInvertible : Clb.powerOn.buildingInvertible := nofun

theorem State.reset_invertibleGuard : State.reset.invertibleGuard :=
  ⟨nofun, fun _ _ _ _ hw => (nomatch State.reset_waitingEdit.symm.trans hw),
    fun _ _ _ hh => (nomatch State.reset_held.symm.trans hh)⟩

/-- Settles O60: each law at the power-on values. -/
theorem lawsHoldAtReset : Obligations.LawsHoldAtReset :=
  ⟨rfl, rfl, nofun, Clb.powerOn_poolLaw, State.reset_countLaw, Clb.powerOn_liveInvertible, Clb.powerOn_buildingInvertible,
    State.reset_invertibleGuard, State.reset_pointLaw, State.reset_zoneLaw, State.reset_roomLaw, State.reset_engineLaw,
    State.reset_placementLaw, State.reset_numberLaw, State.reset_publicationGuard, State.reset_publicationLaw⟩

end Sys2Proof.Machine

/-! The bus and the engine: attach reads, the ends of accesses, fault entry, and the commands that give triggers and scans. -/
namespace Sys2Proof.Machine

/-! ### Attach reads (R166, R167) -/

section
variable {s : State}

/-- An attach read that stays below the top of the address space is granted before any client's access. -/
theorem State.settle_issueAttachRead {o : Nat} (ho : s.eng.wbase.toNat + o ≤ 2 ^ 32 - 4) :
    (s.issueAttachRead o).settle
      = { s with bip := ({ s.bip with waitEng := some ⟨.eng, o, .read⟩ } : Bip).afterGrant s.eng.wbase } := by
  refine State.settle_of_next fun a _ hn => ?_
  obtain rfl := Option.some.inj hn
  exact decide_eq_true ho

theorem Bip.waitEng_of_next {b : Bip} (h : b.next = none) : b.waitEng = none := by
  unfold Bip.next at h
  cases hw : b.waitEng with
  | none => rfl
  | some a => rw [hw] at h; cases h

/-- One that would pass it fails the attach at once, and no other access waits (R166). -/
theorem State.settle_issueAttachRead_of_top {o : Nat} (hin : s.bip.inFlight = none) (hnext : s.bip.next = none)
    (ho : 2 ^ 32 - 4 < s.eng.wbase.toNat + o) :
    (s.issueAttachRead o).settle = s.attachFailed .busError := by
  have hunwait : (s.issueAttachRead o).bip.unwait ⟨.eng, o, .read⟩ = s.bip := by
    rw [← show ({ s.bip with waitEng := none } : Bip) = s.bip by rw [← Bip.waitEng_of_next hnext]]
    rfl
  have hnot : (s.issueAttachRead o).admits ⟨.eng, o, .read⟩ = false := decide_eq_false (Nat.not_le.2 ho)
  have hgrant : (s.issueAttachRead o).settle = State.grantNext 4 (s.attachFailed .busError) := by
    unfold State.settle
    rw [State.grantNext, show (s.issueAttachRead o).bip.inFlight = none from hin]
    dsimp only [State.issueAttachRead_frame]
    rw [show (s.issueAttachRead o).bip.next = some ⟨.eng, o, .read⟩ from rfl]
    dsimp only
    rw [hnot, hunwait]
    rfl
  exact hgrant.trans (State.grantNext_of_none (s := s.attachFailed .busError) hnext 4)

theorem State.attachWordRead_of_more {w : Word} (h : s.eng.attachWords.length < 3) :
    s.attachWordRead w = ({ s with eng := { s.eng with attachWords := s.eng.attachWords ++ [w] } } : State).issueAttachRead
      (4 * (s.eng.attachWords.length + 1)) := by
  unfold State.attachWordRead
  simp only [List.length_append, List.length_singleton]
  rw [if_pos (by omega)]

theorem State.attachWordRead_of_last {w0 w1 w2 w : Word} (h : s.eng.attachWords = [w0, w1, w2]) :
    s.attachWordRead w = match attachFault s.eng.wbase w0 w1 w2 with
      | some reason => s.attachFailed reason
      | none => s.attached w2 w := by
  unfold State.attachWordRead
  rw [h]
  rfl

theorem attachFault_spec (wbase w0 w1 w2 : Word) :
    let badLength : Prop := w2.toNat % 4 ≠ 0 ∨ w2.toNat < 1088 ∨ 16777216 < w2.toNat ∨ 2 ^ 32 < wbase.toNat + w2.toNat
    (w0 ≠ 0x4B435242 → attachFault wbase w0 w1 w2 = some .signature)
    ∧ (w0 = 0x4B435242 → w1 ≠ 1 → attachFault wbase w0 w1 w2 = some .version)
    ∧ (w0 = 0x4B435242 → w1 = 1 → badLength → attachFault wbase w0 w1 w2 = some .length)
    ∧ (w0 = 0x4B435242 → w1 = 1 → ¬badLength → attachFault wbase w0 w1 w2 = none) := by
  unfold attachFault
  refine ⟨fun h0 => if_pos h0, fun h0 h1 => ?_, fun h0 h1 h2 => ?_, fun h0 h1 h2 => ?_⟩
  · rw [if_neg (not_not.2 h0), if_pos h1]
  · rw [if_neg (not_not.2 h0), if_neg (not_not.2 h1), if_pos h2]
  · rw [if_neg (not_not.2 h0), if_neg (not_not.2 h1), if_neg h2]

end

/-- Settles O6: the next attach read, the tests of the four words, and the failures. -/
theorem attachReadAnswered : Obligations.AttachReadAnswered := by
  intro s a ha
  obtain ⟨hin, hmark, ho⟩ := State.awaited_eq_some.1 ha
  have answer (w : Word) : exec (.attachReadAnswer (.word w)) s
      = .next ((s.readDone a w).attachWordRead w).settle := congrArg _ (State.onRead_word ha _ w)
  refine ⟨fun w hlength htop => ?_, fun hnext => ⟨fun w0 w1 w2 w hwords => ?_, fun w hlength htop => ?_, fun hread => ?_⟩⟩
  · rw [answer, State.attachWordRead_of_more (s := s.readDone a w) hlength]
    exact congrArg Host.Outcome.next (State.settle_issueAttachRead htop)
  · have hlast := State.attachWordRead_of_last (s := s.readDone a w) (w := w) hwords
    obtain ⟨hsignature, hversion, hbad, hgood⟩ := attachFault_spec s.eng.wbase w0 w1 w2
    refine ⟨fun h0 => ?_, fun h0 h1 => ?_, fun h0 h1 h2 => ?_, fun h0 h1 h2 => ?_⟩
    · rw [answer, hlast, show (s.readDone a w).eng.wbase = s.eng.wbase from rfl, hsignature h0]
      exact congrArg _ (State.settle_of_none hnext)
    · rw [answer, hlast, show (s.readDone a w).eng.wbase = s.eng.wbase from rfl, hversion h0 h1]
      exact congrArg _ (State.settle_of_none hnext)
    · rw [answer, hlast, show (s.readDone a w).eng.wbase = s.eng.wbase from rfl, hbad h0 h1 h2]
      exact congrArg _ (State.settle_of_none hnext)
    · rw [answer, hlast, show (s.readDone a w).eng.wbase = s.eng.wbase from rfl, hgood h0 h1 h2]
      exact congrArg _ (State.settle_of_none hnext)
  · rw [answer, State.attachWordRead_of_more (s := s.readDone a w) hlength]
    exact congrArg _ (State.settle_issueAttachRead_of_top
      (s := { s.readDone a w with eng := { s.eng with attachWords := s.eng.attachWords ++ [w] } }) rfl hnext htop)
  · have hfailed (kind : FaultKind) : (s.endInFlight.failedAccess a).accessFailed kind a
        = s.endInFlight.attachFailed .busError := by
      unfold State.failedAccess State.accessFailed
      rw [hread, ho]
    have hend : (s.endInFlight.attachFailed .busError).settle = s.endInFlight.attachFailed .busError :=
      State.settle_of_none hnext
    refine ⟨(congrArg Host.Outcome.next (State.onRead_error ha _)).trans ?_, congrArg Host.Outcome.next ?_⟩
    · rw [hfailed, hend]
      rfl
    · unfold State.timeout
      rw [hin]
      dsimp only
      rw [hmark, hfailed, hend]
      rfl

/-! ### DETACH and ENGINE_RESET (R168, R171) -/

theorem Ptb.restartAll_point (ptb : Ptb) (i : Fin 256) :
    ptb.restartAll.points[i] = ⟨ptb.points[i].definition, [], 0, .notYet⟩ := by
  simp [Ptb.restartAll, Point.restart]

theorem Zsv.restartAll_zone (zsv : Zsv) (ptb : Ptb) (i : Fin 256) :
    (zsv.restartAll ptb).zones[i]
      = ⟨if (ptb.points[i].definition.bind PointDef.zoneSet).isSome then .unknown else .none, false⟩ := by
  simp [Zsv.restartAll, PointZone.start_eq]

/-- Settles O7: block by block. -/
theorem detachEndsTheBinding : Obligations.DetachEndsTheBinding := by
  intro s u hengine
  obtain ⟨hslots, hbuilding, hfree⟩ := s.clb.discard_spec
  refine ⟨s.detach, congrArg Host.Outcome.next ?_, rfl, rfl, hslots, hbuilding, hfree, s.ptb.restartAll_point, rfl,
    s.zsv.restartAll_zone s.ptb, ?_, rfl, rfl, rfl, rfl, rfl⟩
  · unfold State.takeDetach
    rw [hengine]
  · exact ⟨rfl, rfl, rfl, rfl, rfl, rfl, rfl, rfl, rfl, rfl, rfl, rfl, rfl, rfl⟩

/-- Settles O11: block by block. -/
theorem engineResetInEveryState : Obligations.EngineResetInEveryState := by
  intro s u
  obtain ⟨hslots, hbuilding, hfree⟩ := s.clb.discard_spec
  refine ⟨s.engineReset, rfl, rfl, rfl, hslots, hbuilding, hfree, s.ptb.restartAll_point, rfl, s.zsv.restartAll_zone s.ptb,
    ?_, rfl, rfl, rfl, rfl, rfl⟩
  exact ⟨rfl, rfl, rfl, rfl, rfl, rfl, rfl, rfl, rfl, rfl, rfl, rfl, rfl, rfl⟩

/-! ### Scan occasions and triggers (R147, R97) -/

section
variable {s : State}

theorem State.settle_scanOccasion_free (hs : s.ready) (held : s.rqh.held = none) (scan : s.rqh.scan = none) :
    s.scanOccasion.settle = { s with
      rqh := { s.rqh with scan := some (.reading 0 (Vector.replicate 16 0)), scanRequested := false }
      bip := (s.bip.withRqh 64 .read).afterGrant s.eng.wbase } := by
  have hbusy : s.rqh.busy = false := by unfold Rqh.busy; rw [held, scan]; rfl
  unfold State.scanOccasion
  rw [hbusy]
  exact State.settle_control .rqh 64 .read (State.ready_congr hs rfl rfl rfl rfl) (by decide)

theorem State.settle_scanOccasion_busy (hs : s.ready) (busy : s.rqh.held ≠ none ∨ s.rqh.scan ≠ none) :
    s.scanOccasion.settle
      = { s with rqh := { s.rqh with scanRequested := true }, bip := s.bip.afterGrant s.eng.wbase } := by
  have hbusy : s.rqh.busy = true := by
    simpa only [Rqh.busy, Bool.or_eq_true, Option.isSome_iff_ne_none] using busy
  unfold State.scanOccasion
  rw [hbusy]
  exact State.settle_ready (State.ready_congr hs rfl rfl rfl rfl)

end

/-- Settles O9: an ATTEND that the engine accepts is a scan occasion. -/
theorem attendIsAScanOccasion : Obligations.AttendIsAScanOccasion := by
  intro s u hengine hwaits hplaced
  have htake : s.takeAttend = s.scanOccasion.settle := by
    unfold State.takeAttend
    rcases hengine with h | h | h <;> rw [h]
  exact ⟨fun held scan => congrArg _ (htake.trans (State.settle_scanOccasion_free ⟨hwaits, hplaced⟩ held scan)),
    fun busy => congrArg _ (htake.trans (State.settle_scanOccasion_busy ⟨hwaits, hplaced⟩ busy))⟩

/-- Both sources of a trigger give one to the pass engine. -/
theorem exec_trigger {s : State} {i : Instr}
    (h : (i = .passTimerExpiry ∧ s.pse.timer ≠ none)
      ∨ (∃ u c, i = .pass u ∧ s.eng.engine = .running ∧ s.eng.config = some c ∧ c.mode ≠ .timer)) :
    exec i s = .next s.trigger.settle := by
  rcases h with ⟨rfl, htimer⟩ | ⟨u, c, rfl, hengine, hconfig, hmode⟩ <;> refine congrArg Host.Outcome.next ?_
  · obtain ⟨n, hn⟩ := Option.ne_none_iff_exists'.1 htimer
    rw [hn]
  · have htakes : c.takesPass = true := by
      unfold Configuration.takesPass
      split
      · rfl
      · rfl
      next h => exact absurd h hmode
    unfold State.takePass
    rw [hengine, hconfig]
    exact if_pos htakes

/-- Settles O10: a trigger begins a pass, waits, or is lost. -/
theorem triggersAreServed : Obligations.TriggersAreServed := by
  refine ⟨fun s htimer => exec_of_notHappening (Option.isNone_iff_eq_none.2 htimer), fun s i hi hwaits hplaced => ?_⟩
  have hs : s.ready := ⟨hwaits, hplaced⟩
  rw [exec_trigger hi]
  refine ⟨fun hpass => congrArg _ ?_, fun hpass hpending => congrArg _ ?_, fun hpass hpending => congrArg _ ?_⟩
  · unfold State.trigger
    rw [if_pos (Option.isNone_iff_eq_none.2 hpass)]
    exact State.settle_control .pse 24 .read (State.ready_congr hs rfl rfl rfl rfl) (by decide)
  · unfold State.trigger
    rw [if_neg (mt Option.isNone_iff_eq_none.1 hpass), hpending]
    exact State.settle_ready (State.ready_congr hs rfl rfl rfl rfl)
  · unfold State.trigger
    rw [if_neg (mt Option.isNone_iff_eq_none.1 hpass), hpending]
    exact State.settle_ready (State.ready_congr hs rfl rfl rfl rfl)

end Sys2Proof.Machine

/-! Failed accesses: fault entry, the ends of disregarded accesses, and the abandon-write. -/
namespace Sys2Proof.Machine

/-! ### Error answers -/

/-- An error answer to the access of owner `o`. -/
def State.failAnswer (s : State) (o : Owner) : State :=
  match s.awaited o with
  | none => s
  | some a => ((s.failDone a).accessFailed .busError a).settle

section
variable {s : State}

theorem State.onRead_failAnswer (o : Owner) (k : State → Word → State) : s.onRead o .error k = s.failAnswer o := by
  unfold State.onRead State.failAnswer
  cases s.awaited o <;> rfl

theorem State.onWrite_failAnswer (o : Owner) (k : State → State) : s.onWrite o .error k = s.failAnswer o := by
  unfold State.onWrite State.failAnswer
  cases s.awaited o <;> rfl

theorem exec_passRead_error {i : Instr}
    (h : i = .startStampReadAnswer .error ∨ i = .unconfirmedBankReadAnswer .error ∨ i = .holdWordReadAnswer .error
      ∨ i = .inputReadAnswer .error ∨ i = .endStampReadAnswer .error) :
    exec i s = .next ((s.answerer i).elim s s.failAnswer) := by
  rcases h with rfl | rfl | rfl | rfl | rfl
  all_goals
    simp only [exec, execStartStampReadAnswer, execUnconfirmedBankReadAnswer, execHoldWordReadAnswer, execInputReadAnswer,
      execEndStampReadAnswer, State.answerer, State.onRead_failAnswer]
    generalize s.pse.pass = pass
    generalize s.eng.config = config
    cases pass with
    | none => rfl
    | some stage => cases stage <;> cases config <;> rfl

theorem exec_passWrite_error {i : Instr}
    (h : i = .fillingHeaderWriteAnswer .error ∨ i = .entryWriteAnswer .error ∨ i = .completeHeaderWriteAnswer .error
      ∨ i = .publicationWordWriteAnswer .error) :
    exec i s = .next ((s.answerer i).elim s s.failAnswer) := by
  rcases h with rfl | rfl | rfl | rfl
  all_goals
    simp only [exec, execFillingHeaderWriteAnswer, execEntryWriteAnswer, execCompleteHeaderWriteAnswer,
      execPublicationWordWriteAnswer, State.answerer, State.onWrite_failAnswer]
    generalize s.pse.pass = pass
    generalize s.eng.config = config
    cases pass with
    | none => rfl
    | some stage => cases stage <;> cases config <;> rfl

theorem exec_scanRead_error {i : Instr} (h : i = .scanReadAnswer .error ∨ i = .parameterReadAnswer .error) :
    exec i s = .next ((s.answerer i).elim s s.failAnswer) := by
  rcases h with rfl | rfl
  all_goals
    simp only [exec, execScanReadAnswer, execParameterReadAnswer, State.answerer, State.onRead_failAnswer]
    generalize s.rqh.scan = scan
    cases scan with
    | none => rfl
    | some stage => cases stage <;> rfl

theorem exec_scanWrite_error {i : Instr}
    (h : i = .staleRefusalWriteAnswer .error ∨ i = .takenWriteAnswer .error ∨ i = .lastTakenTicketWriteAnswer .error) :
    exec i s = .next ((s.answerer i).elim s s.failAnswer) := by
  rcases h with rfl | rfl | rfl
  all_goals
    simp only [exec, execStaleRefusalWriteAnswer, execTakenWriteAnswer, execLastTakenTicketWriteAnswer, State.answerer,
      State.onWrite_failAnswer]
    generalize s.rqh.scan = scan
    generalize s.rqh.held = held
    cases scan with
    | none => rfl
    | some stage => cases stage <;> cases held <;> rfl

theorem exec_heldRead_error : exec (.imageReadAnswer .error) s
    = .next ((s.answerer (.imageReadAnswer .error)).elim s s.failAnswer) := by
  simp only [exec, execImageReadAnswer, State.answerer, State.onRead_failAnswer]
  generalize s.rqh.held = held
  generalize s.clb.building = building
  cases held with
  | none => rfl
  | some h =>
    obtain ⟨slot, kind, ticket, params, stage⟩ := h
    cases stage <;> cases building <;> rfl

theorem exec_heldWrite_error {i : Instr}
    (h : i = .configurePublicationWriteAnswer .error ∨ i = .finishingWriteAnswer .error ∨ i = .abandonWriteAnswer .error) :
    exec i s = .next ((s.answerer i).elim s s.failAnswer) := by
  rcases h with rfl | rfl | rfl
  all_goals
    simp only [exec, execConfigurePublicationWriteAnswer, execFinishingWriteAnswer, execAbandonWriteAnswer, State.answerer,
      State.onWrite_failAnswer]
    generalize s.rqh.held = held
    cases held with
    | none => rfl
    | some h =>
      obtain ⟨slot, kind, ticket, params, stage⟩ := h
      cases stage <;> rfl

theorem exec_ackWordReadAnswer_error : exec (.ackWordReadAnswer .error) s
    = .next ((s.answerer (.ackWordReadAnswer .error)).elim s s.failAnswer) := by
  simp only [exec, execAckWordReadAnswer, State.answerer, State.onRead_failAnswer]
  generalize s.evr.work = work
  generalize s.eng.config = config
  cases work <;> cases config <;> rfl

theorem exec_recordWrite_error {i : Instr} (h : i = .recordWordWriteAnswer .error ∨ i = .highWaterWriteAnswer .error) :
    exec i s = .next ((s.answerer i).elim s s.failAnswer) := by
  rcases h with rfl | rfl
  all_goals
    simp only [exec, execRecordWordWriteAnswer, execHighWaterWriteAnswer, State.answerer, State.onWrite_failAnswer]
    generalize s.evr.work = work
    generalize s.eng.config = config
    cases work with
    | idle => rfl
    | readingAck lostFirst e => rfl
    | writing seq e k behind => fin_cases k <;> cases config <;> rfl

/-- An error answer, in the stage of the access it answers, is that access's failure, and nothing in any other stage. -/
theorem exec_errorAnswer {i : Instr} (h : answerFails i = some true) :
    exec i s = .next ((s.answerer i).elim s s.failAnswer) := by
  cases i with
  | attachReadAnswer answer =>
    obtain rfl : answer = .error := by simpa [answerFails] using h
    exact congrArg Host.Outcome.next (State.onRead_failAnswer _ _)
  | startStampReadAnswer answer | unconfirmedBankReadAnswer answer | holdWordReadAnswer answer | inputReadAnswer answer
  | endStampReadAnswer answer =>
    obtain rfl : answer = .error := by simpa [answerFails] using h
    exact exec_passRead_error (by simp)
  | fillingHeaderWriteAnswer answer | entryWriteAnswer answer | completeHeaderWriteAnswer answer
  | publicationWordWriteAnswer answer =>
    obtain rfl : answer = .error := by simpa [answerFails] using h
    exact exec_passWrite_error (by simp)
  | scanReadAnswer answer | parameterReadAnswer answer =>
    obtain rfl : answer = .error := by simpa [answerFails] using h
    exact exec_scanRead_error (by simp)
  | staleRefusalWriteAnswer answer | takenWriteAnswer answer | lastTakenTicketWriteAnswer answer =>
    obtain rfl : answer = .error := by simpa [answerFails] using h
    exact exec_scanWrite_error (by simp)
  | imageReadAnswer answer =>
    obtain rfl : answer = .error := by simpa [answerFails] using h
    exact exec_heldRead_error
  | configurePublicationWriteAnswer answer | finishingWriteAnswer answer | abandonWriteAnswer answer =>
    obtain rfl : answer = .error := by simpa [answerFails] using h
    exact exec_heldWrite_error (by simp)
  | ackWordReadAnswer answer =>
    obtain rfl : answer = .error := by simpa [answerFails] using h
    exact exec_ackWordReadAnswer_error
  | recordWordWriteAnswer answer | highWaterWriteAnswer answer =>
    obtain rfl : answer = .error := by simpa [answerFails] using h
    exact exec_recordWrite_error (by simp)
  | _ => cases h

/-- The failure of a client's access, by an error answer or a timeout (R185). -/
theorem exec_failure {i : Instr} {kind : FaultKind} {c : Client} {a : Access} (ha : s.awaited (.client c) = some a)
    (hi : (i = .busTimeout ∧ kind = .timeout) ∨ (s.isErrorAnswer i c = true ∧ kind = .busError)) :
    exec i s = .next ((s.failDone a).accessFailed kind a).settle := by
  rcases hi with ⟨rfl, rfl⟩ | ⟨hi, rfl⟩
  · obtain ⟨hin, hmark, -⟩ := State.awaited_eq_some.1 ha
    refine congrArg Host.Outcome.next ?_
    unfold State.timeout
    rw [hin]
    dsimp only
    rw [hmark]
    rfl
  · obtain ⟨hfails, hanswers⟩ := Bool.and_eq_true_iff.1 hi
    rw [exec_errorAnswer (beq_iff_eq.1 hfails), beq_iff_eq.1 hanswers]
    refine congrArg Host.Outcome.next ?_
    dsimp only [Option.elim_some]
    unfold State.failAnswer
    rw [ha]

/-! ### Events dropped together (R140) -/

/-- Each of a run of events dropped is counted, the pending count up to its greatest value. -/
theorem Evr.foldl_drop (es : List Event) (r : Evr) :
    es.foldl (fun r _ => r.drop) r = { r with
      pendingDropped := Word.ofNat (min 0xFFFFFFFF (r.pendingDropped.toNat + es.length))
      dropped := r.dropped + Word.ofNat es.length } := by
  induction es generalizing r with
  | nil =>
    have := r.pendingDropped.isLt
    obtain ⟨w, a, pendingDropped, ackInvalid, queue, work, dropped⟩ := r
    simp only [List.foldl_nil, List.length_nil, Nat.add_zero, Evr.mk.injEq, true_and]
    refine ⟨BitVec.eq_of_toNat_eq ?_, by simp⟩
    simp only [BitVec.toNat_ofNat]
    simp only at this
    omega
  | cons e es ih =>
    have hpending : r.drop.pendingDropped.toNat = min 0xFFFFFFFF (r.pendingDropped.toNat + 1) := by
      have := r.pendingDropped.isLt
      unfold Evr.drop
      dsimp only
      split
      next h => rw [h]; rfl
      next h =>
        have hne : r.pendingDropped.toNat ≠ 0xFFFFFFFF := fun h' => h (BitVec.eq_of_toNat_eq h')
        rw [BitVec.toNat_add]
        show (r.pendingDropped.toNat + 1) % 2 ^ 32 = _
        omega
    rw [List.foldl_cons, ih, hpending]
    simp only [Evr.drop, List.length_cons, Evr.mk.injEq, true_and]
    refine ⟨?_, ?_⟩
    · congr 1
      omega
    · rw [Nat.add_comm es.length 1, show Word.ofNat (1 + es.length) = 1 + Word.ofNat es.length from BitVec.ofNat_add ..,
        BitVec.add_assoc]

theorem Evr.endAtFault_eq (r : Evr) :
    r.endAtFault = { r with
      queue := [], work := .idle
      pendingDropped := Word.ofNat (min 0xFFFFFFFF (r.pendingDropped.toNat + r.heldEvents.length))
      dropped := r.dropped + Word.ofNat r.heldEvents.length } := by
  unfold Evr.endAtFault
  rw [Evr.foldl_drop]

/-! ### Fault entry (R178, R179) -/

/-- With RQH's access alone waiting, the grant is its. -/
theorem Bip.afterGrant_rqh {b : Bip} {a : Access} {base : Word} (hin : b.inFlight = none) (heng : b.waitEng = none)
    (hpse : b.waitPse = none) (hevr : b.waitEvr = none) (hrqh : b.waitRqh = some a) (ho : a.owner = .client .rqh) :
    b.afterGrant base
      = { b with inFlight := some a, base := base, disregard := false, lastGranted := .rqh, waitRqh := none } := by
  have hnext : b.next = some a := by
    unfold Bip.next
    rw [heng, Option.none_or]
    cases b.lastGranted <;> simp [Client.cycleAfter, Bip.waiting, hpse, hevr, hrqh]
  unfold Bip.afterGrant Bip.unwait
  rw [hin, hnext]
  dsimp only
  rw [ho]
  rfl

/-- The blocks at fault entry, before the abandon-write. -/
def State.faulted (s : State) (kind : FaultKind) (c : Client) (offset : Nat) : State :=
  { s with
    eng := { s.eng with engine := .faulted, faultEntry := true, faultRecord := some ⟨kind, c, offset⟩ }
    pse := s.pse.abandon
    evr := s.evr.endAtFault
    clb := s.clb.discard
    bip := s.bip.withdrawAll
    rqh := { s.rqh with held := none, scan := none, scanRequested := false, effectTaken := false } }

theorem State.enterFault_complete {kind : FaultKind} {c : Client} {o : Nat}
    (h : s.rqh.held = none ∨ s.rqh.effectTaken = true) :
    s.enterFault kind c o = (s.faulted kind c o).completeFaultEntry := by
  unfold State.enterFault State.abandonHeld
  dsimp only
  rcases h with h | h
  · rw [h]
    rfl
  · rw [h]
    cases s.rqh.held <;> rfl

theorem State.enterFault_abandon {kind : FaultKind} {c : Client} {o : Nat} {h : Held} (held : s.rqh.held = some h)
    (effect : s.rqh.effectTaken = false) :
    s.enterFault kind c o = (s.faulted kind c o).abandonStep h false := by
  unfold State.enterFault State.abandonHeld
  dsimp only
  rw [held, effect]
  rfl

theorem State.accessFailed_eq_enterFault {kind : FaultKind} {a : Access} {c : Client} (ho : a.owner = .client c)
    (hf : c = .rqh → s.rqh.failureFaults = true) : s.accessFailed kind a = s.enterFault kind c a.offset := by
  unfold State.accessFailed
  rw [ho]
  cases c with
  | pse => rfl
  | evr => rfl
  | rqh =>
    have hf := hf rfl
    unfold Rqh.failureFaults at hf
    cases hheld : s.rqh.held with
    | none => rfl
    | some h =>
      rw [hheld] at hf
      obtain ⟨slot, kind, ticket, params, stage⟩ := h
      cases stage with
      | imageRead => cases hf
      | abandonWrite _ => cases hf
      | _ => rfl

/-- A failed access leaves the window, or, where it was a write but of a COMPLETE header's state, the word may stand there. -/
theorem State.failDone_eq (s : State) (a : Access) : ∃ m n,
    s.failDone a = { s with window := m, freeIndex := n, bip := s.bip.ended }
    ∧ (m = s.window ∨ ∃ w, a.op = .write w ∧ m = Memory.writeWord s.window (s.busAddress a.offset) w)
    ∧ (∀ w, a.op = .writeState w → m = s.window) ∧ (a.op = .read → m = s.window) := by
  refine ⟨_, _, State.failedAccess_eq s.endInFlight a, s.endInFlight.failedAccess_window a, fun w hw => ?_, fun hr => ?_⟩
  · rw [State.failedAccess_writeState _ hw]
    rfl
  · unfold State.failedAccess
    rw [hr]
    rfl

theorem State.settle_enterFault_complete {kind : FaultKind} {c : Client} {o : Nat}
    (h : s.rqh.held = none ∨ s.rqh.effectTaken = true) :
    (s.enterFault kind c o).settle = (s.faulted kind c o).completeFaultEntry := by
  rw [State.enterFault_complete h]
  exact State.settle_of_none (s := (s.faulted kind c o).completeFaultEntry)
    (Bip.next_eq_none rfl fun c => by cases c <;> rfl)

theorem State.settle_enterFault_abandon {kind : FaultKind} {c : Client} {o : Nat} {h : Held} (held : s.rqh.held = some h)
    (effect : s.rqh.effectTaken = false) (placed : s.placed = true) (hin : s.bip.inFlight = none) :
    (s.enterFault kind c o).settle = { s.faulted kind c o with
      rqh := { (s.faulted kind c o).rqh with held := some { h with stage := .abandonWrite false } }
      bip := { s.bip.withdrawAll with
        inFlight := some ⟨.client .rqh, 64 + 64 * h.slot.val + 36, .write 12⟩
        base := s.eng.wbase, disregard := false, lastGranted := .rqh, waitRqh := none } } := by
  rw [State.enterFault_abandon held effect]
  have hready : ({ s.faulted kind c o with
      rqh := { (s.faulted kind c o).rqh with held := some { h with stage := .abandonWrite false } } } : State).ready :=
    ⟨State.waitsAdmitted_of_none rfl fun c => by cases c <;> rfl, (State.placed_congr rfl rfl).trans placed⟩
  refine (State.settle_control .rqh _ _ hready (slotOffset_control h.slot 9 (by decide))).trans ?_
  rw [Bip.afterGrant_rqh (by exact hin) rfl rfl rfl rfl rfl]
  rfl

end

/-- Settles O16: by whether a request is held whose effect is not taken. -/
theorem failedAccessEntersFaulted : Obligations.FailedAccessEntersFaulted := by
  intro s i kind c a ha hi hfaults hplaced
  obtain ⟨-, -, ho⟩ := State.awaited_eq_some.1 ha
  obtain ⟨m, n, hdone, hwindow, hstate, -⟩ := s.failDone_eq a
  have henter : exec i s
      = .next (({ s with window := m, freeIndex := n, bip := s.bip.ended } : State).enterFault kind c a.offset).settle := by
    rw [exec_failure ha hi, State.accessFailed_eq_enterFault ho (fun hc => by rw [hdone]; exact hfaults hc), hdone]
  obtain ⟨hslots, hbuilding, hfree⟩ := s.clb.discard_spec
  have hevr : s.evr.endAtFault.pendingDropped.toNat
      = min 0xFFFFFFFF (s.evr.pendingDropped.toNat + s.evr.heldEvents.length) := by
    rw [s.evr.endAtFault_eq]
    exact Nat.mod_eq_of_lt (by omega)
  have hrecorder : s.evr.endAtFault.w = s.evr.w ∧ s.evr.endAtFault.a = s.evr.a
      ∧ s.evr.endAtFault.ackInvalid = s.evr.ackInvalid ∧ s.evr.endAtFault.queue = [] ∧ s.evr.endAtFault.work = .idle
      ∧ s.evr.endAtFault.dropped = s.evr.dropped + Word.ofNat s.evr.heldEvents.length := by
    rw [s.evr.endAtFault_eq]
    exact ⟨rfl, rfl, rfl, rfl, rfl, rfl⟩
  obtain ⟨hw, haw, hack, hqueue, hwork, hdropped⟩ := hrecorder
  by_cases habandon : ∃ h, s.rqh.held = some h ∧ s.rqh.effectTaken = false
  · obtain ⟨h, hheld, heffect⟩ := habandon
    refine ⟨_, henter.trans (congrArg _ (State.settle_enterFault_abandon
      (s := { s with window := m, freeIndex := n, bip := s.bip.ended }) hheld heffect
      ((State.placed_congr (s := s) rfl rfl).trans hplaced) rfl)), ?_⟩
    exact ⟨rfl, ⟨hw, haw, hack, hqueue, hwork, hdropped, hevr⟩, hslots, hbuilding, hfree, rfl, rfl, rfl, hwindow, hstate,
      rfl, rfl, rfl, rfl, rfl, .inl ⟨h, hheld, heffect, rfl, rfl, rfl⟩⟩
  · have hcomplete : s.rqh.held = none ∨ s.rqh.effectTaken = true := by
      cases hheld : s.rqh.held with
      | none => exact .inl rfl
      | some h => exact .inr (Bool.eq_true_of_not_eq_false fun heffect => habandon ⟨h, hheld, heffect⟩)
    refine ⟨_, henter.trans (congrArg _ (State.settle_enterFault_complete
      (s := { s with window := m, freeIndex := n, bip := s.bip.ended }) hcomplete)), ?_⟩
    exact ⟨rfl, ⟨hw, haw, hack, hqueue, hwork, hdropped, hevr⟩, hslots, hbuilding, hfree, rfl, rfl, rfl, hwindow, hstate,
      rfl, rfl, rfl, rfl, rfl, .inr ⟨hcomplete, rfl, rfl, rfl⟩⟩

/-! ### The end of a disregarded access (R182, R187) -/

/-- Settles O17: the end goes to no client, and the grant follows. -/
theorem disregardedAccessEnds : Obligations.DisregardedAccessEnds := by
  refine ⟨fun s how h => exec_of_notHappening (i := .disregardedAccessEnd how) (by simpa [State.notHappening] using h),
    fun s a i hin hmark hi hwaits => ?_⟩
  have granted (u : State) (m : Memory) (n : Nat) (hu : u = { s with window := m, freeIndex := n, bip := s.bip.ended }) :
      u.settle = { s with window := m, freeIndex := n, bip := s.bip.ended.afterGrant s.eng.wbase } := by
    subst hu
    exact State.settle_eq ((State.ended_waitsAdmitted (s := s)
      (t := { s with window := m, freeIndex := n, bip := s.bip.ended }) rfl rfl rfl).trans hwaits)
  obtain ⟨m, n, hfail, hwindow, hstate, hread⟩ := s.failDone_eq a
  have failed (h : exec i s = .next (s.failDone a).settle) (hnot : i ≠ .disregardedAccessEnd .answered) :
      ∃ t, exec i s = .next t
        ∧ t.eng = s.eng ∧ t.rqh = s.rqh ∧ t.clb = s.clb ∧ t.ptb = s.ptb ∧ t.zsv = s.zsv ∧ t.pse = s.pse
        ∧ t.evr = s.evr ∧ t.pending = s.pending
        ∧ t.bip = s.bip.ended.afterGrant s.eng.wbase
        ∧ (∀ w, a.op.written = some w → i = .disregardedAccessEnd .answered →
          t.window = Memory.writeWord s.window (s.busAddress a.offset) w)
        ∧ (a.op = .read → t.window = s.window)
        ∧ (∀ w, a.op = .writeState w → i ≠ .disregardedAccessEnd .answered → t.window = s.window)
        ∧ (t.window = s.window
          ∨ ∃ w, a.op.written = some w ∧ t.window = Memory.writeWord s.window (s.busAddress a.offset) w) := by
    refine ⟨_, h.trans (congrArg _ (granted _ m n hfail)), rfl, rfl, rfl, rfl, rfl, rfl, rfl, rfl, rfl,
      fun w _ hi => absurd hi hnot, hread, fun w hw _ => hstate w hw, hwindow.imp id ?_⟩
    rintro ⟨w, hw, hm⟩
    exact ⟨w, by rw [hw]; rfl, hm⟩
  have ended (how : DisregardedEnd) : exec (.disregardedAccessEnd how) s = .next (match how with
      | .answered => (s.writeDone a).settle
      | .error | .timeout => (s.failDone a).settle) := by
    refine congrArg Host.Outcome.next ?_
    unfold State.disregardedEnd
    rw [hin]
    dsimp only
    rw [if_pos hmark, State.completedAccess_endInFlight]
    rfl
  rcases hi with rfl | ⟨how, rfl⟩
  · refine failed (congrArg Host.Outcome.next ?_) (by simp)
    unfold State.timeout
    rw [hin]
    exact if_pos hmark
  · cases how with
    | error => exact failed (ended .error) (by simp)
    | timeout => exact failed (ended .timeout) (by simp)
    | answered =>
      have hm := s.completedAccess_window a
      refine ⟨_, (ended .answered).trans (congrArg _ (granted _ (s.completedAccess a).window s.freeIndex rfl)),
        rfl, rfl, rfl, rfl, rfl, rfl, rfl, rfl, rfl, fun w hw _ => ?_, fun hr => ?_, fun w _ hnot => absurd rfl hnot, ?_⟩
      · rw [hw] at hm
        exact hm
      · rw [hr] at hm
        exact hm
      · cases hop : a.op.written with
        | none => rw [hop] at hm; exact .inl hm
        | some w => rw [hop] at hm; exact .inr ⟨w, rfl, hm⟩

/-! ### The abandon-write (R156, R158, R179) -/

/-- A write answered: the word stands, and the client goes on. -/
theorem State.onWrite_write {s : State} {o : Owner} {a : Access} {w : Word} (ha : s.awaited o = some a) (hop : a.op = .write w)
    (k : State → State) :
    s.onWrite o .done k = (k (s.answered (Memory.writeWord s.window (s.busAddress a.offset) w))).settle :=
  State.onWrite_done ha (by rw [hop]; rfl) k

/-- Settles O18: the answers to the two words, and their failure. -/
theorem abandonWriteEnds : Obligations.AbandonWriteEnds := by
  intro s h word0 a w held stage ha hop hwaits hplaced
  have hready := State.answered_ready hwaits hplaced (Memory.writeWord s.window (s.busAddress a.offset) w)
  refine ⟨fun h0 => ?_, fun h0 => ?_, fun i hi => ?_⟩
  · subst h0
    rw [exec_abandonWriteAnswer held stage, State.onWrite_write ha hop]
    exact congrArg _ (State.settle_control .rqh _ _ (State.ready_congr hready rfl rfl rfl rfl)
      (slotOffset_control h.slot 0 (by decide)))
  · subst h0
    rw [exec_abandonWriteAnswer held stage, State.onWrite_write ha hop]
    exact congrArg _ (State.settle_ready (State.ready_congr hready rfl rfl rfl rfl))
  · obtain ⟨kind, hkind⟩ : ∃ kind, exec i s = .next ((s.failDone a).accessFailed kind a).settle := by
      rcases hi with rfl | rfl
      · refine ⟨.busError, exec_failure ha (.inr ⟨?_, rfl⟩)⟩
        obtain ⟨slot, kind, ticket, params, _⟩ := h
        obtain rfl := stage
        simp [State.isErrorAnswer, answerFails, State.answerer, held]
      · exact ⟨.timeout, exec_failure ha (.inl ⟨rfl, rfl⟩)⟩
    obtain ⟨-, -, ho⟩ := State.awaited_eq_some.1 ha
    obtain ⟨m, n, hdone, hwindow, -, -⟩ := s.failDone_eq a
    have hfault : (s.failDone a).accessFailed kind a = (s.failDone a).secondFault := by
      unfold State.accessFailed
      rw [ho, hdone]
      dsimp only
      rw [held]
      dsimp only
      rw [stage]
    rw [hfault, hdone] at hkind
    refine ⟨_, hkind.trans (congrArg _ (State.settle_eq 
      (s := ({ s with window := m, freeIndex := n, bip := s.bip.ended } : State).secondFault)
      ((State.ended_waitsAdmitted (s := s)
        (t := ({ s with window := m, freeIndex := n, bip := s.bip.ended } : State).secondFault) rfl rfl rfl).trans hwaits))), rfl, rfl, rfl, rfl, rfl, rfl, rfl, rfl, rfl, ?_⟩
    rcases hwindow with hm | ⟨v, hv, hm⟩
    · exact .inl hm
    · cases hv.symm.trans hop
      exact .inr hm

end Sys2Proof.Machine

/-! The pass engine's answers up to its publication: each takes the pass to its next stage, whose access is on its way. -/
namespace Sys2Proof.Machine

section
variable {s : State} {a : Access} {o : Owner}

/-- An answered read, once the command is known to be the answer its stage awaits. -/
theorem exec_eq_of_onRead {i : Instr} {w : Word} {k : State → Word → State} {t : State}
    (harm : exec i s = .next (s.onRead o (.word w) k)) (ha : s.awaited o = some a)
    (ht : (k (s.answered (Memory.writeWord s.window (s.busAddress a.offset) w)) w).settle = t) : exec i s = .next t := by
  rw [harm, State.onRead_word ha, ht]

/-- An answered write. -/
theorem exec_eq_of_onWrite {i : Instr} {w : Word} {k : State → State} {t : State}
    (harm : exec i s = .next (s.onWrite o .done k)) (ha : s.awaited o = some a) (hw : a.op.written = some w)
    (ht : (k (s.answered (Memory.writeWord s.window (s.busAddress a.offset) w))).settle = t) : exec i s = .next t := by
  rw [harm, State.onWrite_done ha hw, ht]

theorem AccessOp.written_of_write {op : AccessOp} {w : Word} (h : op = .write w) : op.written = some w := by
  rw [h]
  rfl

/-- PSE goes on to a stage whose access lies in the control block. -/
theorem State.settle_pse (hs : s.ready) (p : Pse) (o : Nat) (op : AccessOp) (ho : o + 4 ≤ 1088) :
    (({ s with pse := p } : State).issue .pse o op).settle
      = { s with pse := p, bip := (s.bip.withPse o op).afterGrant s.eng.wbase } :=
  State.settle_control (u := { s with pse := p }) .pse o op (State.ready_congr hs rfl rfl rfl rfl) ho

/-- PSE goes on to a stage whose access is of a bank word. -/
theorem State.settle_pseBank (hs : s.ready) {c : Configuration} (hc : s.eng.config = some c) (p : Pse) (b : Fin 3) (j : Nat)
    (hj : j < 516) (op : AccessOp) :
    (({ s with pse := p } : State).issue .pse (c.bankWord b j) op).settle
      = { s with
          pse := p
          bip := (s.bip.withPse (c.bankOffset + 2064 * b.val + 4 * j) op).afterGrant s.eng.wbase } :=
  State.settle_issue (u := { s with pse := p }) .pse _ op (State.ready_congr hs rfl rfl rfl rfl)
    (State.admits_bank hs.2 hc b j hj op)

end

/-! ### The bank words (R124, R125) -/

theorem namedBank_eq (w : Word) : namedBank w = if h : w.toNat % 4 < 3 then some ⟨w.toNat % 4, h⟩ else none := by
  split
  next h => exact (namedBank_eq_some w ⟨w.toNat % 4, h⟩).2 rfl
  next h =>
    refine Option.eq_none_iff_forall_ne_some.2 fun b hb => h ?_
    rw [(namedBank_eq_some w b).1 hb]
    exact b.isLt

/-- Settles O21. -/
theorem bankWordsAnswered : Obligations.BankWordsAnswered := by
  intro s a w ha hwaits hplaced
  have hready := State.answered_ready hwaits hplaced (Memory.writeWord s.window (s.busAddress a.offset) w)
  refine ⟨fun b n stage hunconfirmed => ?_, fun c stage hconfig => ?_⟩
  · refine exec_eq_of_onRead (exec_unconfirmedBankReadAnswer stage _) ha ?_
    refine (State.settle_pse hready { s.pse.resolve w with pass := some .holdRead } 16 .read (by decide)).trans ?_
    have hresolve : s.pse.resolve w = { s.pse with
        unconfirmed := none
        bankOrder := if w.toNat % 4 = b.val ∧ w.toNat / 4 = n.toNat % 2 ^ 30
          then s.pse.bankOrder.filter (· != b) ++ [b] else s.pse.bankOrder } := by
      unfold Pse.resolve
      rw [hunconfirmed]
      simp only [namedBank_eq_some, publicationPass]
      split <;> rfl
    simp only [State.answered, hresolve]
  · refine exec_eq_of_onRead (exec_holdWordReadAnswer hconfig stage _) ha ?_
    rw [← namedBank_eq]
    exact State.settle_pseBank hready hconfig _ _ 0 (by decide) _

/-! ### The FILLING header and the entries (R119, R102) -/

/-- An UNUSED point gives an entry of zeros (R53). -/
theorem State.convertPoint_of_unused {s : State} (c : Configuration) {i : Fin 256}
    (h : s.ptb.points[i].definition = none) : s.convertPoint c i = s.writeEntry c i 0 0 := by
  unfold State.convertPoint
  rw [h]
  rfl

/-- Settles O23. -/
theorem fillingHeaderAnswered : Obligations.FillingHeaderAnswered := by
  intro s a c k w stage ha hop hconfig hwaits hplaced
  have hready := State.answered_ready hwaits hplaced (Memory.writeWord s.window (s.busAddress a.offset) w)
  have harm := exec_fillingHeaderWriteAnswer hconfig stage .done
  have hwritten := AccessOp.written_of_write hop
  refine ⟨fun hk => ?_, fun hk hpoint => ?_, fun hk => ?_⟩
  · refine exec_eq_of_onWrite harm ha hwritten ?_
    unfold State.fillingWritten
    rw [dif_pos hk]
    have hvalue : (if (⟨k.val + 1, hk⟩ : Fin 4) = 0 then fillingState else if (⟨k.val + 1, hk⟩ : Fin 4) = 1 then s.pse.passNumber
        else 0) = if k = 0 then s.pse.passNumber else 0 := by
      have hzero : (⟨k.val + 1, hk⟩ : Fin 4) ≠ 0 := fun h => Nat.succ_ne_zero k.val (congrArg Fin.val h)
      have hone : (⟨k.val + 1, hk⟩ : Fin 4) = 1 ↔ k = 0 :=
        ⟨fun h => Fin.ext (Nat.succ.inj (congrArg Fin.val h)), fun h => Fin.ext (congrArg (Fin.val · + 1) h)⟩
      rw [if_neg hzero]
      exact if_congr hone rfl rfl
    rw [← hvalue]
    exact State.settle_pseBank hready hconfig _ _ (k.val + 1) (by omega) _
  · subst hk
    refine exec_eq_of_onWrite harm ha hwritten ?_
    refine (congrArg State.settle (State.convertPoint_of_unused (s := s.answered _) c hpoint)).trans ?_
    exact State.settle_pseBank hready hconfig _ _ 4 (by decide) _
  · subst hk
    exact exec_eq_of_onWrite harm ha hwritten rfl

/-- Settles O26. -/
theorem entryWriteAnswered : Obligations.EntryWriteAnswered := by
  intro s a c i value qz w ha hop hconfig hwaits hplaced
  have hready := State.answered_ready hwaits hplaced (Memory.writeWord s.window (s.busAddress a.offset) w)
  have hwritten := AccessOp.written_of_write hop
  have hcount : (if s.ptb.points[i].definition.isSome then s.pse.activeCount + 1 else s.pse.activeCount)
      = s.pse.activeCount + (if s.ptb.points[i].definition.isSome then 1 else 0) := by split <;> rfl
  refine ⟨fun stage => ?_, fun stage => ?_⟩
  · refine exec_eq_of_onWrite (exec_entryWriteAnswer_value hconfig stage _) ha hwritten ?_
    refine (State.settle_pseBank hready hconfig _ _ (5 + 2 * i.val) (by omega) _).trans ?_
    rw [show c.bankOffset + 2064 * s.pse.workBank.val + 20 + 8 * i.val
      = c.bankOffset + 2064 * s.pse.workBank.val + 4 * (5 + 2 * i.val) by omega]
    rfl
  · have harm := exec_entryWriteAnswer_quality hconfig stage .done
    dsimp only
    rw [← hcount]
    refine ⟨fun hi => ?_, fun hi hpoint => ?_, fun hi => ?_⟩
    · subst hi
      refine exec_eq_of_onWrite harm ha hwritten ?_
      exact State.settle_pse hready _ 24 .read (by decide)
    · refine exec_eq_of_onWrite harm ha hwritten ?_
      unfold State.entryWritten
      dsimp only
      rw [dif_pos hi]
      rw [State.convertPoint_of_unused c (by exact hpoint)]
      refine (State.settle_pseBank hready hconfig _ _ (4 + 2 * (i.val + 1)) (by omega) _).trans ?_
      rw [show c.bankOffset + 2064 * s.pse.workBank.val + 16 + 8 * (i.val + 1)
        = c.bankOffset + 2064 * s.pse.workBank.val + 4 * (4 + 2 * (i.val + 1)) by omega]
      rfl
    · refine exec_eq_of_onWrite harm ha hwritten ?_
      unfold State.entryWritten
      dsimp only
      rw [dif_pos hi]
      rfl

/-! ### The end stamp, the COMPLETE header and the publication word (R103, R121, R104) -/

/-- Settles O27. -/
theorem completeHeaderIsWrittenStateLast : Obligations.CompleteHeaderIsWrittenStateLast := by
  intro s a c ha hconfig hwaits hplaced
  have hready (m : Memory) := State.answered_ready hwaits hplaced m
  refine ⟨fun stamp stage => ?_, fun w hwritten => ⟨fun stage => ?_, fun stage => ?_, fun stage => ?_, fun stage => ?_⟩⟩
  · refine exec_eq_of_onRead (exec_endStampReadAnswer hconfig stage _) ha ?_
    exact State.settle_pseBank (hready _) hconfig _ _ 1 (by decide) _
  · refine exec_eq_of_onWrite (exec_completeHeaderWriteAnswer hconfig stage _) ha hwritten ?_
    exact State.settle_pseBank (hready _) hconfig _ _ 2 (by decide) _
  · refine exec_eq_of_onWrite (exec_completeHeaderWriteAnswer hconfig stage _) ha hwritten ?_
    exact State.settle_pseBank (hready _) hconfig _ _ 3 (by decide) _
  · refine exec_eq_of_onWrite (exec_completeHeaderWriteAnswer hconfig stage _) ha hwritten ?_
    exact State.settle_pseBank (hready _) hconfig _ _ 0 (by decide) _
  · refine exec_eq_of_onWrite (exec_completeHeaderWriteAnswer hconfig stage _) ha hwritten ?_
    rw [Nat.mul_comm 4 (s.pse.passNumber.toNat % 2 ^ 30)]
    exact State.settle_pse (hready _) _ 28 _ (by decide)

/-! ### The released apply step (R108) -/

theorem State.settleTogether_appliesNow {s : State} (hs : s.ready) (h : Held) (e : Edit) :
    s.appliesNow h e (s.applyNow h e).settleTogether := by
  unfold State.settleTogether
  split
  · have hready := State.applyNow_ready hs h e
    have hwaits : ∀ n b, ({ s.applyNow h e with freeIndex := n, bip := { (s.applyNow h e).bip with lastGranted := b } }
        : State).waitsAdmitted = true := fun _ _ => hready.1
    rw [State.settle_eq (hwaits _ _)]
    refine ⟨by simp, by simp, by simp, by simp, by simp, by simp, by simp, s.applyNow_rqh h e, s.applyNow_evr h e, ?_⟩
    exact Bip.afterGrant_waiting (hwaits _ _) _ (s.applyNow_waitRqh h e)
  · exact State.settle_applyNow hs h e

/-- Settles O29. -/
theorem releasedApplyStepIsTakenBetweenPasses : Obligations.ReleasedApplyStepIsTakenBetweenPasses := by
  intro s h e held stage
  have harm : exec .releasedApplyStep s = .next (if s.pse.pass.isSome then
      { s with rqh := { s.rqh with held := some { h with stage := .awaitApply e false } } }
      else (s.applyNow h e).settleTogether) := by
    obtain ⟨slot, kind, ticket, params, _⟩ := h
    obtain rfl := stage
    simp only [exec, execReleasedApplyStep, held]
  refine ⟨fun hpass => ?_, fun hpass hwaits hplaced => ⟨_, ?_, State.settleTogether_appliesNow ⟨hwaits, hplaced⟩ h e⟩⟩
  · rw [harm, if_pos (Option.isSome_iff_ne_none.2 hpass)]
  · rw [harm, if_neg (by simp [hpass])]

end Sys2Proof.Machine

/-! Conversions: a point is reached, its input word read, its working state, zone and entry taken on (R53 to R62). -/
namespace Sys2Proof.Machine

/-! ### The events of a zone's move (R85) -/

/-- The kinds that a zone's move gives. -/
def EventKind.ofZone (k : EventKind) : Prop := k = .highEnter ∨ k = .highLeave ∨ k = .lowEnter ∨ k = .lowLeave

theorem ZoneSet.fromInside_events (z : ZoneSet) (v : Int) (acked : Bool) : ∀ k ∈ (z.fromInside v acked).events, k.ofZone := by
  unfold ZoneSet.fromInside
  split_ifs <;> simp [EventKind.ofZone]

theorem ZoneSet.leave_events (z : ZoneSet) (v : Int) {event : EventKind} (h : event.ofZone) :
    ∀ k ∈ (z.leave v event).events, k.ofZone := by
  intro k hk
  rcases List.mem_cons.1 hk with rfl | hk
  · exact h
  · exact z.fromInside_events v false k hk

theorem ZoneSet.moveUsable_events (z : ZoneSet) (p : PointZone) (v : Int) : ∀ k ∈ (z.moveUsable p v).events, k.ofZone := by
  have inside := z.fromInside_events v p.acked
  unfold ZoneSet.moveUsable
  split
  · exact nofun
  · exact inside
  · exact inside
  · split_ifs
    · simp [EventKind.ofZone]
    · exact nofun
    · exact inside
  · split_ifs
    · simp [EventKind.ofZone]
    · exact nofun
    · exact inside
  · split_ifs
    · exact nofun
    · exact z.leave_events v (.inr (.inl rfl))
    · exact nofun
  · split_ifs
    · exact nofun
    · exact z.leave_events v (.inr (.inr (.inr rfl)))
    · exact nofun
  · split_ifs <;> exact nofun
  · split_ifs <;> exact nofun

theorem Zsv.evaluate_events (zsv : Zsv) (zoneSet : Option (Fin 64)) (p : PointZone) (value : Word) (q : Quality) :
    ∀ k ∈ (zsv.evaluate zoneSet p value q).events, k.ofZone := by
  unfold Zsv.evaluate
  cases zoneSet with
  | none => exact nofun
  | some z =>
    dsimp only
    split_ifs
    · exact ZoneSet.moveUsable_events _ p _
    · exact nofun

/-! ### A conversion (R53) -/

theorem Configuration.bankWord_entry (c : Configuration) (b : Fin 3) (i : Nat) :
    c.bankWord b (4 + 2 * i) = c.bankOffset + 2064 * b.val + 16 + 8 * i := by
  unfold Configuration.bankWord Config.bankBytes
  omega

/-- The events of a conversion, with any auxiliary field that agrees with R85 on a zone's events. -/
theorem conversionEvents_eq (i : Fin 256) (passNumber : Word) (u : WorkingUpdate) {m : ZoneMove}
    (hzone : ∀ k ∈ m.events, k.ofZone) (aux : EventKind → BitVec 16) (haux : ∀ k, k.ofZone → aux k = k.zoneAux) :
    conversionEvents i passNumber u m
      = m.events.map (fun k => ⟨k, BitVec.ofNat 8 i.val, u.point.lastOutput, aux k, passNumber⟩)
        ++ (u.event.map (fun k => ⟨k, BitVec.ofNat 8 i.val, u.point.lastOutput, BitVec.ofNat 16 u.quality.code,
          passNumber⟩)).toList := by
  refine congrArg (· ++ _) (List.map_congr_left fun k hk => ?_)
  rw [haux k (hzone k hk)]
  rfl

section
variable (s : State) (c : Configuration) (i : Fin 256)

theorem State.completePoint_converted (d : PointDef) (src : SourceResult) :
    s.converted c i d src (s.completePoint c i d src) := by
  unfold State.converted
  dsimp only
  generalize hu : s.ptb.points[i].update d.window (curveStep s.clb d src) = u
  generalize hm : s.zsv.evaluate d.zoneSet s.zsv.zones[i] u.point.lastOutput u.quality = m
  obtain ⟨s1, hs1⟩ : ∃ s1 : State, s1 = { s with
      ptb := ⟨s.ptb.points.set i u.point⟩, zsv := { s.zsv with zones := s.zsv.zones.set i m.zone } } := ⟨_, rfl⟩
  have hpoint : s.completePoint c i d src = (s1.handAll (conversionEvents i s.pse.passNumber u m)).writeEntry c i
      u.point.lastOutput (qualityZoneWord u.quality m.zone.state) := by
    unfold State.completePoint
    rw [hs1, ← hm, ← hu]
  have hzone := s.zsv.evaluate_events d.zoneSet s.zsv.zones[i] u.point.lastOutput u.quality
  rw [hm] at hzone
  have hevents := conversionEvents_eq i s.pse.passNumber u hzone
  rw [hpoint]
  have hwork : (s1.handAll (conversionEvents i s.pse.passNumber u m)).pse = s.pse := by simp [hs1]
  refine ⟨?_, ?_, ?_, ?_, ?_, ?_, ?_, fun j hj => ?_, ?_, ?_, fun j hj => ?_, ?_, ?_, ?_⟩
  · simp [hs1]
  · simp [hs1]
  · simp [hs1]
  · simp [hs1]
  · simp [hs1]
  · simp [hs1]
  · simp [hs1]
  · have hne : i.val ≠ j.val := fun h => hj (Fin.ext h.symm)
    simp [hs1, hne]
  · simp [hs1]
  · simp [hs1]
  · have hne : i.val ≠ j.val := fun h => hj (Fin.ext h.symm)
    simp [hs1, hne]
  · simp only [State.writeEntry, State.issue_frame, hwork]
    rfl
  · simp only [State.writeEntry, State.issue_frame]
    refine (State.handAll_evr_congr (t := s) _ (by rw [hs1]) (by rw [hs1]) (by rw [hs1])).trans ?_
    exact congrArg (fun es => (s.handAll es).evr) (hevents _ fun k hk => by rcases hk with rfl | rfl | rfl | rfl <;> rfl)
  · rw [← c.bankWord_entry]
    simp only [State.writeEntry, State.issue_bip, hwork]
    refine congrArg (fun b : Bip => b.withPse _ _) ((State.handAll_bip_congr (t := s) _ (by rw [hs1]) (by rw [hs1])
      (by rw [hs1]) (by rw [hs1])).trans ?_)
    exact congrArg (fun es => (s.handAll es).bip) (hevents _ fun k hk => by rcases hk with rfl | rfl | rfl | rfl <;> rfl)

/-- A RAW point's word is read where it lies inside the input image, and the conversion goes on as BAD_RAW where not. -/
theorem State.convertPoint_of_raw {d : PointDef} {index : Nat} {f : RawFormat} {lo hi : Word}
    (definition : s.ptb.points[i].definition = some d) (source : d.source = .raw index f lo hi) :
    s.convertPoint c i = if index < c.inputCount then
      { s with pse := { s.pse with pass := some (.inputRead i) } }.issue .pse (c.inputOffset + 4 * index) .read
      else s.completePoint c i d (.unusable .badRaw) := by
  unfold State.convertPoint
  rw [definition]
  dsimp only
  rw [source]

theorem State.convertPoint_of_aggregate {d : PointDef} {first count : Nat} {fn : AggregateFn}
    (definition : s.ptb.points[i].definition = some d) (source : d.source = .aggregate first count fn) :
    s.convertPoint c i = s.completePoint c i d (aggregateSource fn (s.ptb.members first count)) := by
  unfold State.convertPoint
  rw [definition]
  dsimp only
  rw [source]

end

/-- Settles O24. -/
theorem pointReached : Obligations.PointReached := by
  refine fun s c i => ⟨fun hpoint => ?_, fun d index f lo hi definition source => ⟨fun hindex => ?_, fun hindex => ?_⟩,
    fun d first count fn definition source => ?_⟩
  · rw [State.convertPoint_of_unused c hpoint, ← c.bankWord_entry]
    rfl
  · rw [s.convertPoint_of_raw c i definition source, if_pos hindex]
    rfl
  · rw [s.convertPoint_of_raw c i definition source, if_neg (Nat.not_lt.2 hindex)]
    exact ⟨rfl, s.completePoint_converted c i d _⟩
  · rw [s.convertPoint_of_aggregate c i definition source]
    exact ⟨rfl, s.completePoint_converted c i d _⟩

/-! ### The input word (R54) -/

theorem Bip.afterGrant_inFlight {b : Bip} (base : Word) (h : b.inFlight ≠ none ∨ ∃ c, b.waiting c ≠ none) :
    (b.afterGrant base).inFlight ≠ none := by
  unfold Bip.afterGrant
  split
  · simp
  next hin hnext =>
    rcases h with h | ⟨c, hc⟩
    · exact absurd hin h
    · unfold Bip.next at hnext
      rw [Option.or_eq_none_iff, List.findSome?_eq_none_iff] at hnext
      exact absurd (hnext.2 c (by cases b.lastGranted <;> cases c <;> simp [Client.cycleAfter])) hc
  next hin => rw [hin]; simp

theorem State.waitsAdmitted_owner {s : State} (h : s.waitsAdmitted = true) :
    (∀ a, s.bip.waitEng = some a → a.owner = .eng) ∧ ∀ c a, s.bip.waiting c = some a → a.owner = .client c := by
  obtain ⟨heng, hclients⟩ := State.waitsAdmitted_iff.1 h
  exact ⟨fun a ha => (heng a ha).1, fun c a ha => (hclients c a ha).1⟩

/-- A client's access that waits still waits after a grant, or is in flight. -/
theorem Bip.afterGrant_waiting_client {s : State} (h : s.waitsAdmitted = true) {c : Client} {a : Access}
    (hw : s.bip.waiting c = some a) :
    (s.bip.afterGrant s.eng.wbase).waiting c = some a ∨ (s.bip.afterGrant s.eng.wbase).inFlight = some a := by
  obtain ⟨heng, hown⟩ := State.waitsAdmitted_owner h
  unfold Bip.afterGrant
  split
  next x hin hnext =>
    rcases Bip.next_eq_some hnext with hx | ⟨d, hx⟩
    · left
      unfold Bip.unwait
      rw [heng x hx]
      cases c <;> exact hw
    · by_cases hcd : c = d
      · subst hcd
        exact .inr (hx.symm.trans hw)
      · left
        unfold Bip.unwait
        rw [hown d x hx]
        have := s.bip.waiting_setWaiting d c none
        rw [if_neg (Ne.symm hcd), hw] at this
        cases c <;> exact this
  · exact .inl hw
  · exact .inl hw

theorem State.completePoint_ready {s : State} (hs : s.ready) {c : Configuration} (hc : s.eng.config = some c) (i : Fin 256)
    (d : PointDef) (src : SourceResult) : (s.completePoint c i d src).ready := by
  unfold State.completePoint
  dsimp only
  have hhand := State.handAll_ready (s := { s with
    ptb := ⟨s.ptb.points.set i (s.ptb.points[i].update d.window (curveStep s.clb d src)).point⟩
    zsv := { s.zsv with zones := s.zsv.zones.set i (s.zsv.evaluate d.zoneSet s.zsv.zones[i]
      (s.ptb.points[i].update d.window (curveStep s.clb d src)).point.lastOutput
      (s.ptb.points[i].update d.window (curveStep s.clb d src)).quality).zone } })
    (State.ready_congr hs rfl rfl rfl rfl) (conversionEvents i s.pse.passNumber
      (s.ptb.points[i].update d.window (curveStep s.clb d src)) (s.zsv.evaluate d.zoneSet s.zsv.zones[i]
      (s.ptb.points[i].update d.window (curveStep s.clb d src)).point.lastOutput
      (s.ptb.points[i].update d.window (curveStep s.clb d src)).quality))
  exact State.issue_ready (State.ready_congr hhand rfl rfl rfl rfl) .pse _ _
    (State.admits_bank (s := { State.handAll _ _ with pse := _ }) hhand.2 (by simpa using hc) _ _ (by omega) _)

/-- Settles O25: the conversion is `State.completePoint_converted`. -/
theorem inputWordAnswered : Obligations.InputWordAnswered := by
  intro s a c i d index f lo hi w stage ha hconfig definition source hwaits hplaced
  have hready := State.answered_ready hwaits hplaced (Memory.writeWord s.window (s.busAddress a.offset) w)
  have hread (u : State) (hu : u.ptb = s.ptb) : u.inputRead c i w = u.completePoint c i d (rawSource f lo hi w) := by
    unfold State.inputRead
    rw [hu, definition]
    dsimp only
    rw [source]
  have hconverted := (s.answered (Memory.writeWord s.window (s.busAddress a.offset) w)).completePoint_converted c i d
    (rawSource f lo hi w)
  have hdone := State.completePoint_ready hready hconfig i d (rawSource f lo hi w)
  rw [← hread (s.answered _) rfl] at hconverted hdone
  generalize hv : (s.answered (Memory.writeWord s.window (s.busAddress a.offset) w)).inputRead c i w = v at hconverted hdone
  obtain ⟨heng, hrqh, hclb, hwindow, hfree, hpending, hpoint, hpoints, hsets, hzone, hzones, hpse, hevr, hbip⟩ :=
    id hconverted
  have hwait : v.bip.waiting .pse = some ⟨.client .pse, c.bankOffset + 2064 * s.pse.workBank.val + 16 + 8 * i.val,
      .write (s.ptb.points[i].update d.window (curveStep s.clb d (rawSource f lo hi w))).point.lastOutput⟩ := by
    rw [hbip]
    rfl
  have hwbase : v.eng.wbase = s.eng.wbase := by rw [heng]; rfl
  have hexec : exec (.inputReadAnswer (.word w)) s = .next { v with bip := v.bip.afterGrant s.eng.wbase } := by
    refine exec_eq_of_onRead (exec_inputReadAnswer hconfig stage _) ha ?_
    rw [hv, State.settle_ready hdone, hwbase]
  have hgranted := Bip.afterGrant_waiting_client hdone.1 hwait
  rw [hwbase] at hgranted
  have hzoneEvents := s.zsv.evaluate_events d.zoneSet s.zsv.zones[i]
    (s.ptb.points[i].update d.window (curveStep s.clb d (rawSource f lo hi w))).point.lastOutput
    (s.ptb.points[i].update d.window (curveStep s.clb d (rawSource f lo hi w))).quality
  refine ⟨_, hexec, heng, hrqh, hclb, hpending, hfree, hpoint, hpoints, hsets, hzone, hzones, hpse, ?_, hwindow,
    Bip.afterGrant_inFlight _ (.inr ⟨.pse, by rw [hwait]; exact Option.some_ne_none _⟩), hgranted, v, rfl, hconverted⟩
  refine hevr.trans ((State.handAll_evr_congr (s := s.answered _) (t := s) _ rfl rfl rfl).trans ?_)
  exact congrArg (fun es => (s.handAll es).evr) (conversionEvents_eq i s.pse.passNumber _ hzoneEvents _
    fun k hk => by rcases hk with rfl | rfl | rfl | rfl <;> rfl).symm

end Sys2Proof.Machine

/-! The end of a pass (R107): what it issues and hands, and the two answers that end one. -/
namespace Sys2Proof.Machine

/-! ### The events of two blocks (R132) -/

/-- PSE's event joins the owner's somewhere, and a free value is drawn exactly where both have one. -/
theorem State.handTogether_eq (s : State) (event : Option Event) (owner : List Event) :
    ∃ order, joinsAmong event owner order
      ∧ s.handTogether event owner
        = ({ s with freeIndex := s.freeIndex + (if event = none ∨ owner = [] then 0 else 1) } : State).handAll order := by
  unfold State.handTogether
  split
  · exact ⟨owner, rfl, by simp⟩
  next e => exact ⟨[e], ⟨0, rfl⟩, by simp [State.handAll]⟩
  next e x xs => exact ⟨_, ⟨Config.eventPlace s.freeIndex, rfl⟩, by simp⟩

section
variable {s u : State} {m : Memory}

/-- Handing depends on the configuration, the pass number, EVR and BIP alone. -/
theorem State.handAll_congr (es : List Event) (config : u.eng.config = s.eng.config) (evr : u.evr = s.evr)
    (number : u.pse.passNumber = s.pse.passNumber) (bip : u.bip = s.bip) :
    (u.handAll es).evr = (s.handAll es).evr ∧ (u.handAll es).bip = (s.handAll es).bip :=
  ⟨State.handAll_evr_congr es config evr number, State.handAll_bip_congr es config evr number bip⟩

/-- What the end of a pass does with the recorder and BIP once its events are known: RQH's access is in `bip`. -/
def State.passEndFollows (s : State) (m : Memory) (bip : Bip) (events : List Event) (again : Prop) (t : State) : Prop :=
  let handed := ({ s with window := m, bip := bip } : State).handAll events
  t.evr = handed.evr
  ∧ (again → t.bip = (handed.bip.withPse 24 .read).afterGrant s.eng.wbase)
  ∧ (¬again → t.bip = handed.bip.afterGrant s.eng.wbase)

theorem State.afterPass_bip (s : State) (halt : Bool) :
    (s.afterPass halt).bip = if halt = false ∧ s.pse.pendingTrigger = true then s.bip.withPse 24 .read else s.bip := by
  unfold State.afterPass
  cases halt with
  | true => rfl
  | false => cases h : s.pse.pendingTrigger <;> rfl

/-- The steps after the apply step (R107, steps 4 and 5), and the grant. -/
theorem State.afterPass_follows {bip : Bip} {order : List Event} {again : Prop} {halt : Bool} {n : Nat}
    (hready : (({ u with freeIndex := n } : State).handAll order).ready) (config : u.eng.config = s.eng.config) (wbase : u.eng.wbase = s.eng.wbase)
    (evr : u.evr = s.evr) (number : u.pse.passNumber = s.pse.passNumber) (hbip : u.bip = bip)
    (hagain : again ↔ halt = false ∧ u.pse.pendingTrigger = true) :
    s.passEndFollows m bip order again ((({ u with freeIndex := n } : State).handAll order).afterPass halt).settle := by
  have hsame := State.handAll_congr (u := { u with freeIndex := n }) (s := { s with window := m, bip := bip }) order
    config evr number hbip
  have hwbase : ((({ u with freeIndex := n } : State).handAll order).afterPass halt).eng.wbase = s.eng.wbase := by
    rw [(State.afterPass_spec _ halt).1]
    split <;> simp [wbase]
  have hend := (({ u with freeIndex := n } : State).handAll order).afterPass_bip halt
  have hpse : (({ u with freeIndex := n } : State).handAll order).pse.pendingTrigger = u.pse.pendingTrigger := by simp
  rw [hpse] at hend
  unfold State.passEndFollows
  rw [State.settle_ready (State.afterPass_ready hready halt)]
  refine ⟨?_, fun ha => ?_, fun ha => ?_⟩
  · simpa using hsame.1
  · rw [if_pos (hagain.1 ha), hsame.2] at hend
    dsimp only
    rw [hend, hwbase]
  · rw [if_neg (mt hagain.2 ha), hsame.2] at hend
    dsimp only
    rw [hend, hwbase]

/-- `u` is `s` at the end of its pass: the access answered, the window at `m`, and PSE's own items as the answer leaves them. -/
structure State.EndsPass (s : State) (m : Memory) (u : State) : Prop where
  config : u.eng.config = s.eng.config
  wbase : u.eng.wbase = s.eng.wbase
  rqh : u.rqh = s.rqh
  clb : u.clb = s.clb
  ptb : u.ptb = s.ptb
  zsv : u.zsv = s.zsv
  evr : u.evr = s.evr
  number : u.pse.passNumber = s.pse.passNumber
  pending : u.pse.pendingTrigger = s.pse.pendingTrigger
  bip : u.bip = s.bip.ended
  freeIndex : u.freeIndex = s.freeIndex
  ready : u.ready

/-- The state of step 2: the scan occasion taken, and no pass in flight. -/
def State.passEnded (s : State) : State := ({ s with pse := { s.pse with pass := none } } : State).scanOccasion

theorem State.passEnded_ready (h : u.ready) : u.passEnded.ready := State.scanOccasion_ready (State.ready_congr h rfl rfl rfl rfl)

theorem State.passEnded_held (u : State) : u.passEnded.rqh.held = u.rqh.held := by
  unfold State.passEnded State.scanOccasion
  split <;> rfl

theorem State.passEnded_bip (u : State) :
    u.passEnded.bip = if u.rqh.busy then u.bip else u.bip.withRqh 64 .read := by
  unfold State.passEnded State.scanOccasion
  cases u.rqh.busy <;> rfl

/-- With no edit taken in the step, the step before step 4 changes RQH at most. -/
theorem State.boundaryApply_untaken {now : Bool} (h : u.rqh.waitingEdit = none ∨ now = false) :
    (u.boundaryApply now).2 = [] ∧ (u.boundaryApply now).1.bip = u.bip := by
  unfold State.boundaryApply
  split
  · exact ⟨rfl, rfl⟩
  next x hx =>
    split
    next e r hstage =>
      have hedit : u.rqh.waitingEdit = some e := by
        obtain ⟨slot, kind, ticket, params, stage⟩ := x
        obtain rfl := hstage
        unfold Rqh.waitingEdit
        rw [hx]
      rcases h with h | h
      · cases hedit.symm.trans h
      · rw [h]
        exact ⟨rfl, rfl⟩
    all_goals exact ⟨rfl, rfl⟩

/-- The end of a pass from its step 3 on. -/
theorem State.EndsPass.follows (h : s.EndsPass m u) (last : Bool) (event : Option Event) {again : Prop}
    (hagain : again ↔ (u.eng.engine == .stopping || last) = false ∧ u.pse.pendingTrigger = true) :
    let now := u.pse.pendingTrigger || (u.eng.engine == .stopping || last)
    let step3 := u.passEnded.boundaryApply now
    ∃ order, joinsAmong event step3.2 order ∧ s.passEndFollows m step3.1.bip order again (u.endPass last event).settle
      ∧ (u.endPass last event).settle.freeIndex = s.freeIndex + (if event = none ∨ step3.2 = [] then 0 else 1) := by
  intro now step3
  obtain ⟨order, hjoins, htogether⟩ := step3.1.handTogether_eq event step3.2
  have hend : u.endPass last event = (step3.1.handTogether event step3.2).afterPass (u.eng.engine == .stopping || last) := by
    unfold State.endPass
    dsimp only
    rw [show ({ u with pse := { u.pse with pass := none } } : State).scanOccasion = u.passEnded from rfl,
      show u.passEnded.pse.pendingTrigger = u.pse.pendingTrigger by simp [State.passEnded]]
  have hready : (step3.1.handTogether event step3.2).ready :=
    State.handTogether_ready (State.boundaryApply_ready (State.passEnded_ready h.ready) _) _ _
  refine ⟨order, hjoins, ?_, ?_⟩
  · rw [hend, htogether]
    rw [htogether] at hready
    refine State.afterPass_follows hready ?_ ?_ ?_ ?_ rfl ?_
    · simpa [step3, State.passEnded] using h.config
    · simpa [step3, State.passEnded] using h.wbase
    · simpa [step3, State.passEnded] using h.evr
    · simpa [step3, State.passEnded] using h.number
    · simpa [step3, State.passEnded] using hagain
  · rw [hend, State.settle_ready (State.afterPass_ready hready _), htogether]
    simp [step3, State.passEnded, h.freeIndex]

theorem joinsAmong_nil {event : Option Event} {order : List Event} (h : joinsAmong event [] order) :
    order = event.toList := by
  cases event with
  | none => exact h
  | some e =>
    obtain ⟨n, hn⟩ := h
    simpa using hn

/-- What the end of a pass does with RQH's access, the recorder and BIP. -/
theorem State.EndsPass.passEndWork (h : s.EndsPass m u) (last : Bool) (event : Option Event) {applies again : Prop}
    (happlies : applies ↔ (u.pse.pendingTrigger || (u.eng.engine == .stopping || last)) = true)
    (hagain : again ↔ (u.eng.engine == .stopping || last) = false ∧ u.pse.pendingTrigger = true) :
    s.passEndWork m applies again event (u.endPass last event).settle := by
  obtain ⟨order, hjoins, hfollows, hfree⟩ := h.follows last event hagain
  refine ⟨fun hedit => ?_, fun x e r held stage ha => ?_⟩
  · have huntaken := State.boundaryApply_untaken (u := u.passEnded)
      (now := u.pse.pendingTrigger || (u.eng.engine == .stopping || last)) (hedit.imp (fun hw => ?_) fun ha => ?_)
    · rw [huntaken.1] at hjoins hfree
      rw [huntaken.2, u.passEnded_bip, h.rqh, h.bip, joinsAmong_nil hjoins] at hfollows
      exact ⟨hfollows, by simpa using hfree⟩
    · rw [← hw, ← h.rqh]
      unfold Rqh.waitingEdit
      rw [u.passEnded_held]
    · exact Bool.eq_false_of_not_eq_true (mt happlies.2 ha)
  · have hheld : u.passEnded.rqh.held = some x := by rw [u.passEnded_held, h.rqh, held]
    have hbusy : u.rqh.busy = true := by rw [h.rqh]; unfold Rqh.busy; rw [held]; rfl
    rw [happlies.1 ha, State.boundaryApply_taken hheld stage] at hjoins hfollows hfree
    have hcongr := State.applyEdit_congr (s := u.passEnded) (t := s) e (by simp [State.passEnded, h.clb])
      (by simp [State.passEnded, h.ptb]) (by simp [State.passEnded, h.zsv]) (by simp [State.passEnded, h.number])
    obtain ⟨-, -, -, hevents, hwords⟩ := hcongr
    have howner : (u.passEnded.takeEdit x e).2 = (s.applyEdit e).events := hevents
    have hbip : (u.passEnded.takeEdit x e).1.bip = s.bip.ended.withRqh (64 + 64 * x.slot.val + 36) (.write 0) := by
      have hended : u.passEnded.bip = s.bip.ended := by rw [u.passEnded_bip, if_pos hbusy, h.bip]
      rw [← hended]
      simp [State.takeEdit, State.finish, State.finishStep, finishingWordIndex, finishingWord, slotOffset]
      rfl
    rw [howner] at hjoins hfree
    rw [hbip] at hfollows
    exact ⟨order, hjoins, hfollows, hfree⟩

/-! ### Block by block -/

section
variable (h : s.EndsPass m u) (last : Bool) (event : Option Event)
include h

theorem State.EndsPass.settle_eq : (u.endPass last event).settle
    = { u.endPass last event with bip := (u.endPass last event).bip.afterGrant (u.endPass last event).eng.wbase } :=
  State.settle_ready (State.endPass_ready h.ready last event)

/-- ENG and PSE at the end of a pass (R107). -/
theorem State.EndsPass.engine_pass {halt again : Prop} (hhalt : halt ↔ (u.eng.engine == .stopping || last) = true)
    (hagain : again ↔ u.pse.pendingTrigger = true ∧ ¬halt) :
    let t := (u.endPass last event).settle
    (halt → t.eng = { u.eng with engine := .idle }) ∧ (¬halt → t.eng = u.eng)
    ∧ t.pse = { u.pse with
        pendingTrigger := false, pass := t.pse.pass, inputChanged := t.pse.inputChanged, timer := t.pse.timer }
    ∧ (halt → t.pse.timer = none) ∧ (¬halt → t.pse.timer = u.pse.timer)
    ∧ (again → t.pse.pass = some .startStamp ∧ t.pse.inputChanged = false)
    ∧ (¬again → t.pse.pass = none ∧ t.pse.inputChanged = u.pse.inputChanged) := by
  obtain ⟨heng, hpse⟩ := u.endPass_spec last event
  rw [h.settle_eq last event]
  dsimp only
  rw [heng, hpse]
  refine ⟨fun ht => ?_, fun ht => ?_, rfl, fun ht => ?_, fun ht => ?_, fun ht => ?_, fun ht => ?_⟩
  · exact if_pos (hhalt.1 ht)
  · exact if_neg (mt hhalt.2 ht)
  · exact if_pos (hhalt.1 ht)
  · exact if_neg (mt hhalt.2 ht)
  · obtain ⟨hpending, hnot⟩ := hagain.1 ht
    have hcond := And.intro (Bool.eq_false_of_not_eq_true (mt hhalt.2 hnot)) hpending
    exact ⟨if_pos hcond, if_pos hcond⟩
  · have hcond : ¬((u.eng.engine == .stopping || last) = false ∧ u.pse.pendingTrigger = true) := fun ⟨hnot, hpending⟩ =>
      ht (hagain.2 ⟨hpending, fun hh => Bool.false_ne_true (hnot.symm.trans (hhalt.1 hh))⟩)
    exact ⟨if_neg hcond, if_neg hcond⟩

omit h in
theorem State.endPass_stands : (u.endPass last event).settle.window = u.window
    ∧ (u.endPass last event).settle.pending = u.pending := by
  simp

/-- RQH, the recorder and the tables when no edit waits. -/
theorem State.EndsPass.noEdit (hedit : s.rqh.waitingEdit = none) :
    let t := (u.endPass last event).settle
    t.clb = s.clb ∧ t.ptb = s.ptb ∧ t.zsv = s.zsv
    ∧ t.rqh = (if s.rqh.busy then { s.rqh with scanRequested := true }
        else { s.rqh with scan := some (.reading 0 (Vector.replicate 16 0)), scanRequested := false })
    ∧ (event = none → t.evr = s.evr) ∧ ∀ e, event = some e → t.evr = (s.hand e).evr := by
  obtain ⟨hclb, hptb, hzsv, hrqh, hevr⟩ := u.endPass_noEdit last event (by rw [h.rqh]; exact hedit)
  rw [h.settle_eq last event]
  refine ⟨hclb.trans h.clb, hptb.trans h.ptb, hzsv.trans h.zsv, hrqh.trans ?_, fun he => ?_, fun e he => ?_⟩
  · unfold State.scanOccasion
    rw [← h.rqh]
    split <;> rfl
  · subst he
    exact hevr.trans h.evr
  · subst he
    exact hevr.trans (State.hand_evr_congr e h.config h.evr h.number)

/-- The same when an edit waits. -/
theorem State.EndsPass.edit {applies : Prop}
    (happlies : applies ↔ (u.pse.pendingTrigger || (u.eng.engine == .stopping || last)) = true) {x : Held} {e : Edit} {r : Bool}
    (held : s.rqh.held = some x) (stage : x.stage = .awaitApply e r) :
    let t := (u.endPass last event).settle
    (applies → t.clb = (s.applyEdit e).state.clb ∧ t.ptb = (s.applyEdit e).state.ptb ∧ t.zsv = (s.applyEdit e).state.zsv
      ∧ t.rqh = { s.rqh with
          scanRequested := true, effectTaken := true
          held := some { x with stage := .finishing .ok (resultWords (s.applyEdit e).words) 0 } })
    ∧ (¬applies → t.clb = s.clb ∧ t.ptb = s.ptb ∧ t.zsv = s.zsv
      ∧ t.rqh = { s.rqh with scanRequested := true, held := some { x with stage := .awaitApply e true } }) := by
  obtain ⟨htaken, hreleased⟩ := u.endPass_edit last event x e r (by rw [h.rqh]; exact held) stage
  obtain ⟨eclb, eptb, ezsv, -, ewords⟩ := State.applyEdit_congr (s := u) (t := s) e h.clb h.ptb h.zsv h.number
  rw [h.settle_eq last event]
  dsimp only
  refine ⟨fun ha => ?_, fun ha => ?_⟩
  · obtain ⟨hclb, hptb, hzsv, hrqh⟩ := htaken (happlies.1 ha)
    exact ⟨hclb.trans eclb, hptb.trans eptb, hzsv.trans ezsv, by rw [hrqh, h.rqh, ewords]⟩
  · obtain ⟨hclb, hptb, hzsv, hrqh⟩ := hreleased (Bool.eq_false_of_not_eq_true (mt happlies.2 ha))
    exact ⟨hclb.trans h.clb, hptb.trans h.ptb, hzsv.trans h.zsv, by rw [hrqh, h.rqh]⟩

end

end

/-! ### The start stamp (R99 to R101) -/

/-- The pass takes its number, and reads the publication word for an unconfirmed bank, or the hold word at once. -/
theorem State.numberPass_eq (s : State) (stamp : Word) :
    s.numberPass stamp = ({ s with pse := { s.pse with
        pass := some (if s.pse.unconfirmed = none then .holdRead else .unconfirmedRead)
        startStamp := stamp, passNumber := s.pse.passNumber + 1, activeCount := 0, runningCheck := 0xFFFF } } : State).issue
      .pse (if s.pse.unconfirmed = none then 16 else 28) .read := by
  unfold State.numberPass
  dsimp only
  by_cases h : s.pse.unconfirmed = none
  · rw [if_neg (by rw [h]; exact Bool.false_ne_true), if_pos h, if_pos h]
    rfl
  · rw [if_pos (Option.isSome_iff_ne_none.2 h), if_neg h, if_neg h]
    rfl

/-- Settles O20: an odd stamp ends the pass. -/
theorem startStampAnswered : Obligations.StartStampAnswered := by
  intro s a stamp stage ha hwaits hplaced
  have hready := State.answered_ready hwaits hplaced (Memory.writeWord s.window (s.busAddress a.offset) stamp)
  have harm := exec_startStampReadAnswer stage (.word stamp)
  refine ⟨fun heven => ?_, fun hodd => ?_⟩
  · refine exec_eq_of_onRead harm ha ?_
    unfold State.startStampRead
    rw [heven]
    refine (congrArg State.settle (State.numberPass_eq (s.answered _) stamp)).trans ?_
    exact State.settle_pse hready _ _ .read (by split <;> decide)
  · intro halt again
    obtain ⟨u, hu⟩ : ∃ u : State, u = { s.answered (Memory.writeWord s.window (s.busAddress a.offset) stamp) with
        pse := { s.pse with skipped := s.pse.skipped + 1, skipFlag := true } } := ⟨_, rfl⟩
    obtain ⟨event, hevent⟩ : ∃ event, event
        = if s.pse.skipFlag then none else some (inputBusyEvent stamp s.pse.passNumber) := ⟨_, rfl⟩
    have hends : s.EndsPass (Memory.writeWord s.window (s.busAddress a.offset) stamp) u := by
      subst hu
      exact ⟨rfl, rfl, rfl, rfl, rfl, rfl, rfl, rfl, rfl, rfl, rfl, State.ready_congr hready rfl rfl rfl rfl⟩
    have hexec : exec (.startStampReadAnswer (.word stamp)) s = .next (u.endPass false event).settle := by
      refine exec_eq_of_onRead harm ha ?_
      unfold State.startStampRead
      rw [hodd, hu, hevent]
      rfl
    have hhalt : halt ↔ (u.eng.engine == .stopping || false) = true := by
      rw [Bool.or_false, beq_iff_eq, hu]
      rfl
    have hagain : again ↔ u.pse.pendingTrigger = true ∧ ¬halt := by rw [hu]
    have happlies : (s.pse.pendingTrigger = true ∨ halt)
        ↔ (u.pse.pendingTrigger || (u.eng.engine == .stopping || false)) = true := by
      rw [Bool.or_eq_true_iff, ← hhalt, hends.pending]
    obtain ⟨hidle, hstands, hpse, hstopped, hruns, hbegins, hnone⟩ := hends.engine_pass false event hhalt hagain
    refine ⟨_, hexec, fun hh => (hidle hh).trans (by rw [hu]; rfl), fun hh => (hstands hh).trans (by rw [hu]; rfl),
      hpse.trans (by rw [hu]), hstopped, fun hh => (hruns hh).trans (by rw [hu]), hbegins,
      fun hh => ⟨(hnone hh).1, (hnone hh).2.trans (by rw [hu])⟩, ?_, ?_, ?_, fun hedit => ?_, fun x e r held sstage => ?_⟩
    · exact (State.endPass_stands _ _).1.trans (by rw [hu]; rfl)
    · exact (State.endPass_stands _ _).2.trans (by rw [hu]; rfl)
    · rw [hevent]
      exact hends.passEndWork false _ happlies (hagain.trans (by
        rw [and_comm, hhalt, Bool.not_eq_true]))
    · obtain ⟨hclb, hptb, hzsv, hrqh, hevr, hhanded⟩ := hends.noEdit false event hedit
      refine ⟨hclb, hptb, hzsv, hrqh, ?_⟩
      split
      next hflag => exact hevr (by rw [hevent, if_pos hflag])
      next hflag => exact hhanded _ (by rw [hevent, if_neg hflag]; rfl)
    · obtain ⟨htaken, hreleased⟩ := hends.edit false event happlies held sstage
      exact ⟨htaken, fun hpending hh => hreleased (not_or.2 ⟨by simp [hpending], hh⟩)⟩

/-! ### Publication (R105) -/

/-- Settles O28. -/
theorem publicationAnswered : Obligations.PublicationAnswered := by
  intro s a w stage ha hop hwaits hplaced halt again
  have hready := State.answered_ready hwaits hplaced (Memory.writeWord s.window (s.busAddress a.offset) w)
  obtain ⟨u, hu⟩ : ∃ u : State, u = { s.answered (Memory.writeWord s.window (s.busAddress a.offset) w) with
      eng := { s.eng with cause := s.eng.cause ||| 2 }, pse := s.pse.afterPublication } := ⟨_, rfl⟩
  obtain ⟨event, hevent⟩ : ∃ event, event
      = if s.pse.overrunCount = 0 then none else some (overrunEvent s.pse.overrunCount s.pse.passNumber) := ⟨_, rfl⟩
  have hends : s.EndsPass (Memory.writeWord s.window (s.busAddress a.offset) w) u := by
    subst hu
    exact ⟨rfl, rfl, rfl, rfl, rfl, rfl, rfl, rfl, rfl, rfl, rfl, State.ready_congr hready rfl rfl rfl rfl⟩
  obtain ⟨last, hlast⟩ : ∃ last, last = (s.pse.passNumber == Word.max) := ⟨_, rfl⟩
  have hexec : exec (.publicationWordWriteAnswer .done) s = .next (u.endPass last event).settle := by
    refine exec_eq_of_onWrite (exec_publicationWordWriteAnswer stage _) ha (AccessOp.written_of_write hop) ?_
    rw [hu, hevent, hlast]
    rfl
  have hhalt : halt ↔ (u.eng.engine == .stopping || last) = true := by
    rw [Bool.or_eq_true_iff, beq_iff_eq, hlast, beq_iff_eq, hu]
  have hagain : again ↔ u.pse.pendingTrigger = true ∧ ¬halt := by rw [hu]; rfl
  have happlies : (s.pse.pendingTrigger = true ∨ halt)
      ↔ (u.pse.pendingTrigger || (u.eng.engine == .stopping || last)) = true := by
    rw [Bool.or_eq_true_iff, ← hhalt, hends.pending]
  obtain ⟨hidle, hstands, hpse, hstopped, hruns, hbegins, hnone⟩ := hends.engine_pass last event hhalt hagain
  have hitems : u.pse = s.pse.afterPublication := by rw [hu]
  rw [hitems] at hpse
  refine ⟨_, hexec, fun hh => (hidle hh).trans (by rw [hu]), fun hh => (hstands hh).trans (by rw [hu]),
    by rw [hpse]; rfl, ?_, by rw [hpse]; rfl, by rw [hpse]; rfl, by rw [hpse]; rfl, by rw [hpse]; rfl, by rw [hpse]; rfl,
    by rw [hpse]; rfl, by rw [hpse]; rfl, by rw [hpse], hstopped, fun hh => (hruns hh).trans (by rw [hitems]; rfl), hbegins,
    fun hh => (hnone hh).1, ?_, ?_, ?_, fun hedit => ?_, fun x e r held sstage => ?_⟩
  · rw [hpse]
    simp [Pse.publishedBank, Pse.afterPublication, Pse.publishBank]
  · exact (State.endPass_stands _ _).1.trans (by rw [hu]; rfl)
  · exact (State.endPass_stands _ _).2.trans (by rw [hu]; rfl)
  · rw [hevent]
    exact hends.passEndWork last _ happlies (hagain.trans (by
      rw [and_comm, hhalt, Bool.not_eq_true]))
  · obtain ⟨hclb, hptb, hzsv, hrqh, hevr, hhanded⟩ := hends.noEdit last event hedit
    refine ⟨hclb, hptb, hzsv, hrqh, ?_⟩
    split
    next hzero => exact hevr (by rw [hevent, if_pos hzero])
    next hzero => exact hhanded _ (by rw [hevent, if_neg hzero]; rfl)
  · obtain ⟨htaken, hreleased⟩ := hends.edit last event happlies held sstage
    exact ⟨htaken, fun hpending hh => hreleased (not_or.2 ⟨by simp [hpending], hh⟩)⟩

end Sys2Proof.Machine

/-! The request handler: scans, takes and finishings (R146 to R153). -/
namespace Sys2Proof.Machine

/-! ### The fields of a slot's word 0 (R144, R190) -/

theorem toNat_append_fields (x : BitVec 16) (y z : BitVec 8) :
    (x ++ y ++ z : Word).toNat = 65536 * x.toNat + 256 * y.toNat + z.toNat := by
  rw [BitVec.toNat_append, BitVec.toNat_append, ← Nat.shiftLeft_add_eq_or_of_lt z.isLt, ← Nat.shiftLeft_add_eq_or_of_lt y.isLt,
    Nat.shiftLeft_eq, Nat.shiftLeft_eq]
  omega

/-- A slot's word 0 is the number its fields give. -/
theorem headWord_eq (ticket : BitVec 16) (kind : Byte) (st : SlotState) :
    headWord ticket kind st = Word.ofNat (65536 * ticket.toNat + 256 * kind.toNat + st.code.toNat) := by
  rw [← toNat_append_fields]
  exact BitVec.eq_of_toNat_eq (Nat.mod_eq_of_lt (BitVec.isLt _)).symm

theorem headTicket_toNat (head : Word) : (headTicket head).toNat = head.toNat / 65536 := by
  have := head.isLt
  rw [headTicket, BitVec.extractLsb'_toNat, Nat.shiftRight_eq_div_pow]
  omega

theorem headKind_toNat (head : Word) : (headKind head).toNat = head.toNat / 256 % 256 := by
  rw [headKind, BitVec.extractLsb'_toNat, Nat.shiftRight_eq_div_pow]

/-- RQH writes a slot's word 0 back with another state. -/
theorem headWord_withState (head : Word) (st : SlotState) :
    headWord (headTicket head) (headKind head) st = withState head st.code.toNat := by
  rw [headWord_eq, headTicket_toNat, headKind_toNat]
  unfold withState
  congr 1
  omega

theorem isPosted_iff (head : Word) : isPosted head = true ↔ head.toNat % 256 = 1 := by
  rw [isPosted, beq_iff_eq, ← BitVec.toNat_inj, headState, BitVec.extractLsb'_toNat]
  rfl

/-- How far a ticket stands behind the expected one (R146). -/
theorem ticketDistance (expected : BitVec 16) (head : Word) :
    (expected - headTicket head).toNat = (expected.toNat + 65536 - head.toNat / 65536) % 65536 := by
  have := head.isLt
  rw [BitVec.toNat_sub, headTicket_toNat]
  omega

/-! ### The slots of a scan (R146, R148) -/

/-- A slot is POSTED with a ticket of the class. -/
def Rqh.posts (r : Rqh) (heads : Vector Word 16) (cls : TicketClass) (b : Fin 16) : Bool :=
  isPosted heads[b] && ticketClass r.expectedTicket (headTicket heads[b]) == cls

/-- The distances of each class. -/
def TicketClass.least : TicketClass → Nat
  | .candidate => 0 | .stale => 1 | .ahead => 32769

def TicketClass.most : TicketClass → Nat
  | .candidate => 0 | .stale => 32768 | .ahead => 65535

section
variable (r : Rqh) (heads : Vector Word 16)

theorem Rqh.posts_iff (cls : TicketClass) (b : Fin 16) : r.posts heads cls b = true ↔ r.behind heads[b] cls.least cls.most := by
  unfold Rqh.posts Rqh.behind ticketClass
  rw [Bool.and_eq_true_iff, isPosted_iff, beq_iff_eq, ticketDistance]
  dsimp only
  refine and_congr_right fun _ => ?_
  generalize hd : (r.expectedTicket.toNat + 65536 - heads[b].toNat / 65536) % 65536 = d
  have : d < 65536 := by rw [← hd]; exact Nat.mod_lt _ (by decide)
  cases cls <;> simp only [TicketClass.least, TicketClass.most] <;> split_ifs <;> simp <;> omega

/-- The first slot of a class, from slot `n` on. -/
theorem Rqh.find?_slotsOf (cls : TicketClass) (n : Nat) :
    (r.slotsOf heads cls).find? (fun b => decide (n ≤ b.val)) = Fin.find? (fun b => r.posts heads cls b && decide (n ≤ b.val)) := by
  unfold Rqh.slotsOf
  rw [List.find?_filter, Fin.find?_eq_find?_finRange]
  congr 1
  funext b
  rw [Bool.eq_iff_iff]
  simp [Rqh.posts]

theorem Rqh.head?_slotsOf (cls : TicketClass) : (r.slotsOf heads cls).head? = Fin.find? (r.posts heads cls) := by
  unfold Rqh.slotsOf
  rw [List.head?_filter, Fin.find?_eq_find?_finRange]
  rfl

theorem Rqh.slotsOf_ahead : (!(r.slotsOf heads .ahead).isEmpty) = true ↔ ∃ b : Fin 16, r.behind heads[b] 32769 65535 := by
  rw [Bool.not_eq_true', List.isEmpty_eq_false_iff_exists_mem]
  unfold Rqh.slotsOf
  simp only [List.mem_filter, List.mem_finRange, true_and]
  exact exists_congr fun b => r.posts_iff heads .ahead b

end

section
variable {s : State} {heads : Vector Word 16}

/-- RQH goes on to a stage whose access is of the control block. -/
theorem State.settle_rqh (hs : s.ready) (r : Rqh) (o : Nat) (op : AccessOp) (ho : o + 4 ≤ 1088) :
    (({ s with rqh := r } : State).issue .rqh o op).settle
      = { s with rqh := r, bip := (s.bip.withRqh o op).afterGrant s.eng.wbase } :=
  State.settle_control (u := { s with rqh := r }) .rqh o op (State.ready_congr hs rfl rfl rfl rfl) ho

theorem State.settle_staleStep (hs : s.ready) (b : Fin 16) (k : Fin 8) :
    (s.staleStep heads b k).settle = { s with
      rqh := { s.rqh with scan := some (.staleWrite heads b k) }
      bip := (s.bip.withRqh (slotOffset b (finishingWordIndex k)) (.write (staleWord s.rqh.expectedTicket heads[b] k))).afterGrant
        s.eng.wbase } := by
  refine State.settle_rqh hs _ _ _ (slotOffset_control b _ ?_)
  unfold finishingWordIndex
  split <;> omega

/-- The scan goes on from slot `n`, the slots read (R148). -/
theorem State.refuseStaleFrom_continues (hs : s.ready) (n : Nat) :
    s.scanContinues heads n (s.refuseStaleFrom heads n).settle := by
  have stale := s.rqh.posts_iff heads .stale
  have candidate := s.rqh.posts_iff heads .candidate
  refine ⟨fun b hb hstale hfirst => ?_, fun hnone => ?_⟩
  · have hfind : Fin.find? (fun b => s.rqh.posts heads .stale b && decide (n ≤ b.val)) = some b := by
      refine Fin.find?_eq_some_iff.2 ⟨by simpa [hb] using (stale b).2 hstale, fun b' hlt => ?_⟩
      refine Bool.eq_false_of_not_eq_true fun hp => ?_
      obtain ⟨hposts, hn⟩ := Bool.and_eq_true_iff.1 hp
      exact hfirst b' (of_decide_eq_true hn) hlt ((stale b').1 hposts)
    unfold State.refuseStaleFrom
    rw [s.rqh.find?_slotsOf, hfind]
    exact State.settle_staleStep hs b 0
  · have hfind : Fin.find? (fun b => s.rqh.posts heads .stale b && decide (n ≤ b.val)) = none := by
      refine Fin.find?_eq_none_iff.2 fun b => Bool.eq_false_of_not_eq_true fun hp => ?_
      obtain ⟨hposts, hn⟩ := Bool.and_eq_true_iff.1 hp
      exact hnone b (of_decide_eq_true hn) ((stale b).1 hposts)
    have htake : s.refuseStaleFrom heads n = s.takeOrEnd heads := by
      unfold State.refuseStaleFrom
      rw [s.rqh.find?_slotsOf, hfind]
    rw [htake]
    have hhead := s.rqh.head?_slotsOf heads .candidate
    refine ⟨fun b hcandidate hfirst => ?_, fun hno => ⟨!(s.rqh.slotsOf heads .ahead).isEmpty, s.rqh.slotsOf_ahead heads, ?_⟩⟩
    · rw [Fin.find?_eq_some_iff.2 ⟨(candidate b).2 hcandidate, fun b' hlt => Bool.eq_false_of_not_eq_true fun hp =>
        hfirst b' hlt ((candidate b').1 hp)⟩] at hhead
      obtain ⟨rest, hrest⟩ := List.head?_eq_some_iff.1 hhead
      unfold State.takeOrEnd
      rw [hrest]
      exact State.settle_rqh hs _ _ .read (slotOffset_control b 1 (by decide))
    · rw [Fin.find?_eq_none_iff.2 fun b => Bool.eq_false_of_not_eq_true fun hp => hno b ((candidate b).1 hp)] at hhead
      have hend : s.takeOrEnd heads = s.endScan heads := by
        unfold State.takeOrEnd
        rw [List.head?_eq_none_iff.1 hhead]
      rw [hend]
      unfold State.endScan
      refine ⟨fun hrequested => ?_, fun hrequested => ?_⟩
      · dsimp only
        rw [hrequested]
        exact State.settle_ready (State.ready_congr hs rfl rfl rfl rfl)
      · dsimp only
        rw [hrequested]
        exact State.settle_rqh hs _ 64 .read (by decide)

end

/-- Settles O30. -/
theorem scanReadAnswered : Obligations.ScanReadAnswered := by
  intro s a k heads w scan ha hwaits hplaced m
  have hready := State.answered_ready hwaits hplaced m
  have harm := exec_scanReadAnswer scan (.word w)
  refine ⟨fun hk => ?_, fun hk => ?_⟩
  · refine exec_eq_of_onRead harm ha ?_
    unfold State.slotRead
    dsimp only
    rw [dif_pos hk]
    exact State.settle_rqh hready _ _ .read (slotOffset_control ⟨k.val + 1, hk⟩ 0 (by decide))
  · subst hk
    exact ⟨_, exec_eq_of_onRead harm ha rfl, State.refuseStaleFrom_continues hready 0⟩

/-- Settles O31. -/
theorem staleRefusalAnswered : Obligations.StaleRefusalAnswered := by
  intro s a heads b k w scan ha hop hwaits hplaced m goesOn
  have hready := State.answered_ready hwaits hplaced m
  have harm := exec_staleRefusalWriteAnswer scan .done
  have hwritten := AccessOp.written_of_write hop
  have next (k' : Fin 8) (hk : k'.val = k.val + 1) : exec (.staleRefusalWriteAnswer .done) s = goesOn k' (4 * finishingWordIndex k')
      (staleWord s.rqh.expectedTicket heads[b] k') := by
    refine exec_eq_of_onWrite harm ha hwritten ?_
    unfold State.staleWritten
    rw [dif_pos (by omega), show (⟨k.val + 1, by omega⟩ : Fin 8) = k' from Fin.ext hk.symm]
    exact State.settle_staleStep hready b k'
  refine ⟨fun hk => ?_, fun hk hleast => ?_, fun hk => ?_, fun hk => ?_⟩
  · subst hk
    exact next 1 rfl
  · refine (next ⟨k.val + 1, by omega⟩ rfl).trans ?_
    have hindex : 4 * finishingWordIndex ⟨k.val + 1, by omega⟩ = 40 + 4 * k.val := by
      unfold finishingWordIndex
      rw [if_neg (by dsimp only; omega)]
      dsimp only
      omega
    have hword : staleWord s.rqh.expectedTicket heads[b] ⟨k.val + 1, by omega⟩ = 0 := by
      unfold staleWord
      dsimp only
      rw [if_neg (by omega), if_neg (by omega), if_neg (by omega)]
    rw [hindex, hword]
  · subst hk
    refine (next 7 rfl).trans ?_
    exact congrArg (goesOn 7 0) (headWord_withState heads[b] .refused)
  · subst hk
    refine ⟨_, exec_eq_of_onWrite harm ha hwritten rfl, ?_⟩
    exact State.refuseStaleFrom_continues (s := { s with
      eng := { s.eng with cause := s.eng.cause ||| 1 }
      rqh := { s.rqh with refused := s.rqh.refused + 1 }
      window := m
      bip := s.bip.ended }) (State.ready_congr hready rfl rfl rfl rfl) (b.val + 1)

/-- Settles O32. -/
theorem takeAnswered : Obligations.TakeAnswered := by
  intro s a b head params w ha hwaits hplaced m
  have hready := State.answered_ready hwaits hplaced m
  refine ⟨fun k scan => ⟨fun hk => ?_, fun hk => ?_⟩, fun scan hop => ?_⟩
  · refine exec_eq_of_onRead (exec_parameterReadAnswer scan _) ha ?_
    unfold State.parameterRead
    dsimp only
    rw [dif_pos hk]
    exact State.settle_rqh hready _ _ .read (slotOffset_control b (k.val + 2) (by omega))
  · subst hk
    refine exec_eq_of_onRead (exec_parameterReadAnswer scan _) ha ?_
    rw [show withState head 2 = headWord (headTicket head) (headKind head) .taken from (headWord_withState head .taken).symm]
    exact State.settle_rqh hready _ _ _ (slotOffset_control b 0 (by decide))
  · refine exec_eq_of_onWrite (exec_takenWriteAnswer scan _) ha (AccessOp.written_of_write hop) ?_
    have hticket : Word.ofNat (head.toNat / 65536) = (headTicket head).setWidth 32 := by
      refine BitVec.eq_of_toNat_eq ?_
      have := head.isLt
      rw [BitVec.toNat_setWidth, headTicket_toNat, BitVec.toNat_ofNat]
    rw [hticket]
    exact State.settle_rqh hready _ 40 _ (by decide)

/-! ### Finishing (R153) -/

/-- Settles O39. -/
theorem finishingAnswered : Obligations.FinishingAnswered := by
  refine ⟨rfl, fun s a h code results k w held stage ha hop hwaits hplaced => ?_⟩
  intro m goesOn
  have hready := State.answered_ready hwaits hplaced m
  have harm := exec_finishingWriteAnswer held stage .done
  have hwritten := AccessOp.written_of_write hop
  have next (k' : Fin 8) (hk : k'.val = k.val + 1) : exec (.finishingWriteAnswer .done) s
      = goesOn k' (4 * finishingWordIndex k') (finishingWord h code results k') := by
    refine exec_eq_of_onWrite harm ha hwritten ?_
    unfold State.finishingWritten
    rw [dif_pos (by omega), show (⟨k.val + 1, by omega⟩ : Fin 8) = k' from Fin.ext hk.symm]
    refine State.settle_rqh hready _ _ _ (slotOffset_control h.slot _ ?_)
    unfold finishingWordIndex
    split <;> omega
  refine ⟨fun hk => ?_, fun hk => ?_, fun hk scan => ?_⟩
  · refine (next ⟨k.val + 1, by omega⟩ rfl).trans ?_
    have hindex : 4 * finishingWordIndex ⟨k.val + 1, by omega⟩ = 40 + 4 * k.val := by
      unfold finishingWordIndex
      rw [if_neg (by dsimp only; omega)]
      dsimp only
      omega
    have hword : finishingWord h code results ⟨k.val + 1, by omega⟩ = results[k.val] := by
      unfold finishingWord
      dsimp only
      rw [if_neg (by omega), dif_pos ⟨by omega, by omega⟩]
      rfl
    rw [hindex, hword]
  · subst hk
    refine (next 7 rfl).trans (congrArg (goesOn 7 0) ?_)
    refine (headWord_eq _ _ _).trans ?_
    split <;> rfl
  · subst hk
    refine exec_eq_of_onWrite harm ha hwritten ?_
    exact State.settle_scanOccasion_free (State.ready_congr hready rfl rfl rfl rfl) rfl scan

end Sys2Proof.Machine

/-! The kinds answered at once, and CONFIGURE (R44, R159 to R162). -/
namespace Sys2Proof.Machine

section
variable {s : State} {h : Held}

/-! ### Work by kind (R151) -/

theorem State.beginWork_nop (hk : h.kind = 0) : s.beginWork h = s.workNop h := by
  rw [State.beginWork, hk]; rfl

theorem State.beginWork_configure (hk : h.kind = 1) : s.beginWork h = s.workConfigure h := by
  rw [State.beginWork, hk]; rfl

theorem State.beginWork_load (hk : h.kind = 2) : s.beginWork h = s.workLoad h := by
  rw [State.beginWork, hk]; rfl

theorem State.beginWork_query (hk : h.kind = 4) : s.beginWork h = s.workQuery h := by
  rw [State.beginWork, hk]; rfl

theorem State.beginWork_readCounters (hk : h.kind = 9) : s.beginWork h = s.workReadCounters h := by
  rw [State.beginWork, hk]; rfl

theorem State.beginWork_badKind (hk : 10 ≤ h.kind.toNat) :
    s.beginWork h = s.finish h .badKind [Word.ofNat h.kind.toNat] := by
  obtain ⟨n, hn⟩ := Nat.exists_eq_add_of_le' hk
  have hword : h.kind.setWidth 32 = Word.ofNat h.kind.toNat := (BitVec.ofNat_toNat ..).symm
  rw [State.beginWork, hword, hn]
  rfl

theorem State.workQuery_of_badIndex (hc : 64 ≤ (h.param 0).toNat) : s.workQuery h = s.finish h .badParam [] := by
  rw [State.workQuery, toIndex_of_le hc]

theorem State.workQuery_of_slot {c : Fin 64} (hc : (h.param 0).toNat = c.val) :
    s.workQuery h = s.finish h .ok (s.clb.query c) := by
  rw [State.workQuery, toIndex_of_toNat_eq hc]

/-- The step in which the work begins ends with the first finishing write on its way, when the work finishes the request. -/
theorem exec_takeComplete_finish {a : Access} {w : Word} (hready : s.ready) (hscan : s.rqh.scan = some .ticketWrite)
    (hheld : s.rqh.held = some h) (ha : s.awaited (.client .rqh) = some a) (hop : a.op = .write w) {code : ResultCode}
    {words : List Word} (hwork : (s.workBegins a w).beginWork h = (s.workBegins a w).finish h code words) :
    exec (.lastTakenTicketWriteAnswer .done) s = .next ((s.workBegins a w).finishing h code words) := by
  rw [exec_lastTakenTicketWriteAnswer_done hscan hheld ha hop, hwork,
    State.settle_finish (State.workBegins_ready hready a w)]

end

/-- Settles O33. -/
theorem answeredAtOnce : Obligations.AnsweredAtOnce := by
  intro s a h w hscan hheld ha hop hadmitted hplaced u result counters
  have hready : u.ready := State.workBegins_ready ⟨hadmitted, hplaced⟩ a w
  have finishes {code words} (hwork : u.beginWork h = u.finish h code words) : result = .next (u.finishing h code words) :=
    exec_takeComplete_finish ⟨hadmitted, hplaced⟩ hscan hheld ha hop hwork
  refine ⟨fun hk => finishes (State.beginWork_nop hk), fun hk => finishes (State.beginWork_badKind hk),
    fun hk hzero => ?_, fun hk hzero => ?_, fun hk hc => ?_, fun c hk hc => ?_⟩
  · refine finishes ((State.beginWork_readCounters hk).trans ?_)
    unfold State.workReadCounters
    dsimp only
    rw [if_neg (by rw [show h.param 0 = h.params[0] from rfl, hzero]; decide)]
    rfl
  · have hwork : u.beginWork h = ({ u.zeroCounters with
        rqh := { u.zeroCounters.rqh with effectTaken := true } } : State).finish h .ok counters := by
      rw [State.beginWork_readCounters hk]
      unfold State.workReadCounters
      dsimp only
      rw [if_pos (by rw [show h.param 0 = h.params[0] from rfl, hzero])]
      rfl
    have hresult : result = .next (u.beginWork h).settle := exec_lastTakenTicketWriteAnswer_done hscan hheld ha hop
    rw [hresult, hwork]
    exact congrArg Host.Outcome.next (State.settle_finish (s := { u.zeroCounters with
      rqh := { u.zeroCounters.rqh with effectTaken := true } }) (State.ready_congr hready rfl rfl rfl rfl) h .ok counters)
  · exact finishes ((State.beginWork_query hk).trans (State.workQuery_of_badIndex hc))
  · have answered {words} (hquery : s.clb.query c = words) : result = .next (u.finishing h .ok words) :=
      finishes ((State.beginWork_query hk).trans ((State.workQuery_of_slot hc).trans (hquery ▸ rfl)))
    refine ⟨fun hempty => answered ?_, fun body hbody => answered ?_⟩
    · simp only [Clb.query, hempty]
      rfl
    · simp only [Clb.query, hbody]
      rfl

/-! ### Checks whose refusals carry words -/

/-- `result` answers the reasons from `n` on, tried in order: `words k` are the words behind the number of reason `k` when it
holds. The first that holds refuses with the code, its number and its words; when none holds, a value is accepted. -/
def answersReasons {α : Type} (words : Nat → Option (List Word)) (code : ResultCode) (n : Nat) (result : Except RefusedWith α)
    (accepted : α → Prop) : Prop :=
  (∀ k ws, n ≤ k → words k = some ws → (∀ j, n ≤ j → j < k → words j = none) →
    result = .error (code, Word.ofNat k :: ws))
  ∧ ((∀ k, n ≤ k → words k = none) → ∃ v, result = .ok v ∧ accepted v)

section
variable {α : Type} {words : Nat → Option (List Word)} {code : ResultCode} {n : Nat} {accepted : α → Prop}

theorem answersReasons.accept {v : α} (hv : accepted v) (hnone : ∀ k, n ≤ k → words k = none) :
    answersReasons words code n (.ok v) accepted :=
  ⟨fun k _ hk hw _ => (nomatch (hnone k hk).symm.trans hw), fun _ => ⟨v, rfl, hv⟩⟩

theorem answersReasons.refuse {ws : List Word} (hw : words n = some ws) :
    answersReasons words code n (.error (code, Word.ofNat n :: ws)) accepted := by
  refine ⟨fun k ws' hk hw' hfirst => ?_, fun hnone => nomatch (hnone n (Nat.le_refl n)).symm.trans hw⟩
  obtain rfl : n = k := Nat.le_antisymm hk (Nat.le_of_not_lt fun hlt => nomatch (hfirst n (Nat.le_refl n) hlt).symm.trans hw)
  rw [Option.some_inj.1 (hw.symm.trans hw')]

theorem answersReasons.pass {result : Except RefusedWith α} (hw : words n = none)
    (h : answersReasons words code (n + 1) result accepted) : answersReasons words code n result accepted := by
  obtain ⟨refused, passed⟩ := h
  refine ⟨fun k ws hk hwk hfirst => refused k ws (Nat.lt_of_le_of_ne hk fun heq => ?_) hwk fun j hj => hfirst j (by omega),
    fun hnone => passed fun k hk => hnone k (by omega)⟩
  subst heq
  exact nomatch hw.symm.trans hwk

theorem answersReasons.ite {result : Except RefusedWith α} {p : Prop} [Decidable p] {ws : List Word}
    (hw : words n = if p then some ws else none) (h : ¬p → answersReasons words code (n + 1) result accepted) :
    answersReasons words code n (if p then .error (code, Word.ofNat n :: ws) else result) accepted := by
  split
  · next hp => exact .refuse (hw.trans (if_pos hp))
  · next hp => exact .pass (hw.trans (if_neg hp)) (h hp)

theorem answersReasons.refuses {result : Except RefusedWith α} (h : answersReasons words code 0 result accepted) {k : Nat}
    {ws : List Word} (hw : words k = some ws) (hfirst : ∀ j < k, words j = none) :
    result = .error (code, Word.ofNat k :: ws) :=
  h.1 k ws (Nat.zero_le k) hw fun j _ => hfirst j

theorem answersReasons.accepts {result : Except RefusedWith α} (h : answersReasons words code 0 result accepted)
    (hnone : ∀ k, words k = none) : ∃ v, result = .ok v ∧ accepted v := h.2 fun k _ => hnone k

end

/-! ### CONFIGURE's checks (R160) -/

/-- The first entry of a list in ascending order that passes a test. -/
theorem find?_eq_some_iff_of_pairwise {α : Type} {r : α → α → Prop} (asymm : ∀ x y, r x y → ¬ r y x) {l : List α}
    (hl : l.Pairwise r) {p : α → Bool} {x : α} :
    l.find? p = some x ↔ x ∈ l ∧ p x = true ∧ ∀ y ∈ l, r y x → p y = false := by
  induction hl with
  | nil => simp
  | @cons z l hz _ ih =>
    rw [List.find?_cons]
    cases hp : p z with
    | true =>
      simp only [Option.some.injEq, List.mem_cons]
      refine ⟨?_, fun ⟨hx, _, hfirst⟩ => hx.elim Eq.symm fun hmem => ?_⟩
      · rintro rfl
        refine ⟨.inl rfl, hp, fun y hy hrel => ?_⟩
        obtain rfl | hmem := hy
        · exact absurd hrel (asymm _ _ hrel)
        · exact absurd hrel (asymm _ _ (hz y hmem))
      · rw [hfirst z (.inl rfl) (hz x hmem)] at hp
        cases hp
    | false =>
      rw [ih]
      simp only [List.mem_cons]
      refine ⟨fun ⟨hx, hpx, hfirst⟩ => ⟨.inr hx, hpx, fun y hy hrel => ?_⟩, fun ⟨hx, hpx, hfirst⟩ => ⟨?_, hpx, fun y hy => hfirst y (.inr hy)⟩⟩
      · obtain rfl | hmem := hy
        · exact hp
        · exact hfirst y hmem hrel
      · refine hx.resolve_left ?_
        rintro rfl
        rw [hp] at hpx
        cases hpx

/-- The configuration that CONFIGURE's words give. -/
def Held.configuration (h : Held) : Configuration :=
  ⟨(h.param 0).toNat, (h.param 1).toNat, (h.param 2).toNat, (h.param 3).toNat, (h.param 4).toNat, (h.param 5).toNat,
    if (h.param 6).toNat = 0 then .timer else if (h.param 6).toNat = 1 then .command else .both⟩

/-- The words behind the number of a reason for which CONFIGURE is refused in a window; none when the check passes. -/
def Held.configureWords (h : Held) (window : Nat) : Nat → Option (List Word)
  | 1 => if (h.param 1).toNat < 1 ∨ 1024 < (h.param 1).toNat then some [] else none
  | 2 => if (h.param 4).toNat < 16 ∨ 1024 < (h.param 4).toNat then some [] else none
  | 3 => if (h.param 5).toNat < 1 ∨ 65535 < (h.param 5).toNat then some [] else none
  | 4 => if 2 < (h.param 6).toNat then some [] else none
  | 5 => h.configuration.misaligned.map fun n => [Word.ofNat n]
  | 6 => (h.configuration.outside window).map fun n => [Word.ofNat n, Word.ofNat window]
  | 7 => h.configuration.overlap.map fun p => [Word.ofNat p.1, Word.ofNat p.2]
  | _ => none

theorem triggerModeOf_eq (w : Word) : triggerModeOf w = if 2 < w.toNat then none
    else some (if w.toNat = 0 then .timer else if w.toNat = 1 then .command else .both) := by
  have h0 : w = 0 ↔ w.toNat = 0 := BitVec.toNat_inj.symm
  have h1 : w = 1 ↔ w.toNat = 1 := BitVec.toNat_inj.symm
  have h2 : w = 2 ↔ w.toNat = 2 := BitVec.toNat_inj.symm
  simp only [triggerModeOf, h0, h1, h2]
  generalize w.toNat = n
  match n with
  | 0 | 1 | 2 => rfl
  | n + 3 => rw [if_neg (by omega), if_neg (by omega), if_neg (by omega), if_pos (by omega)]

section
variable {s : State} {h : Held}

theorem Held.configureWords_none (h : Held) {window k : Nat} (hk : 8 ≤ k) : h.configureWords window k = none := by
  obtain ⟨n, rfl⟩ := Nat.exists_eq_add_of_le' hk
  rfl

/-- CONFIGURE's seven checks, in order, in IDLE. -/
theorem State.checkConfigure_answers (hidle : s.eng.engine = .idle) :
    answersReasons (h.configureWords (s.eng.windowLength.getD 0)) .badParam 0 (s.checkConfigure h) (· = h.configuration) := by
  unfold State.checkConfigure
  rw [if_neg (not_not.2 hidle), triggerModeOf_eq]
  refine .pass rfl (.ite (n := 1) rfl fun _ => .ite (n := 2) rfl fun _ => .ite (n := 3) rfl fun _ => ?_)
  by_cases hmode : 2 < (h.param 6).toNat
  · rw [if_pos hmode]
    exact .refuse (n := 4) (if_pos hmode)
  rw [if_neg hmode]
  refine .pass (if_neg hmode) ?_
  dsimp only
  rw [← Held.configuration]
  cases hmis : h.configuration.misaligned with
  | some n => exact .refuse (n := 5) (congrArg (Option.map _) hmis)
  | none =>
    refine .pass (congrArg (Option.map _) hmis) ?_
    dsimp only
    cases hout : h.configuration.outside (s.eng.windowLength.getD 0) with
    | some n => exact .refuse (n := 6) (congrArg (Option.map _) hout)
    | none =>
      refine .pass (congrArg (Option.map _) hout) ?_
      dsimp only
      cases hover : h.configuration.overlap with
      | some p => exact .refuse (n := 7) (congrArg (Option.map _) hover)
      | none => exact .pass (congrArg (Option.map _) hover) (.accept rfl fun k hk => h.configureWords_none hk)

/-! ### The areas that a reason names -/

/-- The area numbers 2 to 4 in ascending order. -/
theorem find?_area {p : Nat → Bool} {k : Nat} :
    [2, 3, 4].find? p = some k ↔ k ∈ [2, 3, 4] ∧ p k = true ∧ ∀ j, 2 ≤ j → j < k → p j = false := by
  rw [find?_eq_some_iff_of_pairwise (r := (· < ·)) (fun x y h => Nat.lt_asymm h) (by decide)]
  refine and_congr_right fun hk => and_congr_right fun _ => ⟨fun hfirst j hj hlt => hfirst j ?_ hlt, fun hfirst j hj => hfirst j ?_⟩
  · simp only [List.mem_cons, List.not_mem_nil, or_false] at hk ⊢
    omega
  · simp only [List.mem_cons, List.not_mem_nil, or_false] at hj
    omega

/-- The pairs of area numbers in the order of R160's reason 7. -/
theorem find?_areas {p : Nat × Nat → Bool} {k k' : Nat} :
    [(1, 2), (1, 3), (1, 4), (2, 3), (2, 4), (3, 4)].find? p = some (k, k') ↔
      1 ≤ k ∧ k < k' ∧ k' ≤ 4 ∧ p (k, k') = true
        ∧ ∀ j j', 1 ≤ j → j < j' → j' ≤ 4 → (j < k ∨ (j = k ∧ j' < k')) → p (j, j') = false := by
  have mem (x y : Nat) : (x, y) ∈ [(1, 2), (1, 3), (1, 4), (2, 3), (2, 4), (3, 4)] ↔ 1 ≤ x ∧ x < y ∧ y ≤ 4 := by
    simp only [List.mem_cons, Prod.mk.injEq, List.not_mem_nil, or_false]
    omega
  rw [find?_eq_some_iff_of_pairwise (r := fun x y => x.1 < y.1 ∨ (x.1 = y.1 ∧ x.2 < y.2))
    (fun x y h => by omega) (by decide), mem]
  simp only [Prod.forall, mem, and_imp, and_assoc]

/-- Where area `n` starts. -/
def Configuration.areaStart (c : Configuration) (n : Nat) : Nat :=
  if n = 2 then c.inputOffset else if n = 3 then c.bankOffset else if n = 4 then c.stripOffset else 0

/-- Where area `n` ends. -/
def Configuration.areaStop (c : Configuration) (n : Nat) : Nat :=
  if n = 2 then c.inputOffset + 4 * c.inputCount else if n = 3 then c.bankOffset + 6192
    else if n = 4 then c.stripOffset + 16 * c.stripCapacity else 1088

section
variable {c : Configuration} {window k k' : Nat}

theorem Configuration.misaligned_iff : c.misaligned = some k ↔
    k ∈ [2, 3, 4] ∧ c.areaStart k % 4 ≠ 0 ∧ ∀ j, 2 ≤ j → j < k → c.areaStart j % 4 = 0 := by
  rw [show c.misaligned = [2, 3, 4].find? (fun n => c.areaStart n % 4 != 0) from rfl]
  simp only [find?_area, bne_iff_ne, bne_eq_false_iff_eq]

theorem Configuration.outside_iff : c.outside window = some k ↔
    k ∈ [2, 3, 4] ∧ window < c.areaStop k ∧ ∀ j, 2 ≤ j → j < k → c.areaStop j ≤ window := by
  rw [show c.outside window = [2, 3, 4].find? (fun n => decide (window < c.areaStop n)) from rfl]
  simp only [find?_area, decide_eq_true_eq, decide_eq_false_iff_not, Nat.not_lt]

theorem Configuration.overlap_iff : c.overlap = some (k, k') ↔
    1 ≤ k ∧ k < k' ∧ k' ≤ 4 ∧ (c.areaStart k < c.areaStop k' ∧ c.areaStart k' < c.areaStop k)
      ∧ ∀ j j', 1 ≤ j → j < j' → j' ≤ 4 → (j < k ∨ (j = k ∧ j' < k')) →
        ¬(c.areaStart j < c.areaStop j' ∧ c.areaStart j' < c.areaStop j) := by
  rw [show c.overlap = [(1, 2), (1, 3), (1, 4), (2, 3), (2, 4), (3, 4)].find? (fun p =>
    areasOverlap (c.areaStart p.1, c.areaStop p.1) (c.areaStart p.2, c.areaStop p.2)) from rfl]
  simp only [find?_areas, areasOverlap, Bool.and_eq_true, decide_eq_true_eq, ← Bool.not_eq_true]

end

/-! ### CONFIGURE's effect (R161, R187) -/

/-- Without an access in flight only EVR's waiting access is given up. -/
theorem Bip.giveUpEvr_of_idle {b : Bip} (hin : b.inFlight = none) : b.giveUpEvr = { b with waitEvr := none } := by
  unfold Bip.giveUpEvr
  rw [hin, Bool.or_false]

/-- Giving up the recorder's access and the configuration keeps a state ready. -/
theorem State.ready_giveUpEvr {t : State} (hready : s.ready) (hb : t.bip = { s.bip with waitEvr := none })
    (he : t.eng = { s.eng with config := none }) : t.ready := by
  obtain ⟨hwaits, hplaced⟩ := hready
  have hadmits (a : Access) : t.admits a = s.admits a := State.admits_congr (by rw [he]) (by rw [he]) a
  obtain ⟨heng, hclients⟩ := State.waitsAdmitted_iff.1 hwaits
  refine ⟨State.waitsAdmitted_iff.2 ⟨fun a ha => ?_, fun c a ha => ?_⟩, ?_⟩
  · rw [hb] at ha
    rw [hadmits]
    exact heng a ha
  · rw [hb] at ha
    rw [hadmits]
    cases c with
    | rqh => exact hclients .rqh a ha
    | pse => exact hclients .pse a ha
    | evr => cases ha
  · unfold State.placed at hplaced ⊢
    rw [he]
    dsimp only
    cases hlength : s.eng.windowLength with
    | none => simp [hlength] at hplaced
    | some length =>
      simp only [hlength, Bool.and_eq_true] at hplaced
      simp [of_decide_eq_true hplaced.1]

/-- A CONFIGURE that passed its checks sends the publication word NONE on its way. -/
theorem State.settle_configureEffect (hready : s.ready) (hin : s.bip.inFlight = none) (c : Configuration) :
    (s.configureEffect h c).settle = { s with
      eng := { s.eng with config := none }
      pse := s.pse.configured
      evr := s.evr.discard
      rqh := { s.rqh with held := some { h with stage := .configureWrite c s.eng.config.isSome s.pse.passNumber } }
      bip := (({ s.bip with waitEvr := none } : Bip).withPse 28 (.write 3)).afterGrant s.eng.wbase } := by
  unfold State.configureEffect
  rw [Bip.giveUpEvr_of_idle hin]
  exact State.settle_control .pse _ _ (State.ready_giveUpEvr hready rfl rfl) (by decide)

end

/-- Settles O36. -/
theorem configureIsCheckedAndStored : Obligations.ConfigureIsCheckedAndStored := by
  intro s a h w hheld hop hadmitted hplaced u result p length start stop fails
  have hready : u.ready := State.workBegins_ready ⟨hadmitted, hplaced⟩ a w
  refine ⟨fun hscan ha hk => ?_, fun new had old hstage ha => ?_⟩
  · have hresult : result = .next (u.workConfigure h).settle := by
      rw [← State.beginWork_configure hk]
      exact exec_lastTakenTicketWriteAnswer_done hscan hheld ha hop
    have refused {r : RefusedWith} (hc : u.checkConfigure h = .error r) : result = .next (u.finishing h r.1 r.2) := by
      rw [hresult, State.workConfigure, hc]
      exact congrArg Host.Outcome.next (State.settle_finish hready h r.1 r.2)
    refine ⟨fun hengine => refused (r := (.wrongState, [Word.ofNat s.eng.engine.code])) ?_, fun hidle => ?_⟩
    · rw [State.checkConfigure, if_pos hengine]
    have hfails (reason : Nat) (words : List Word) : fails reason words ↔ h.configureWords length reason = some words := by
      have range {q : Prop} [Decidable q] (ws : List Word) : (if q then some ([] : List Word) else none) = some ws ↔ q ∧ ws = [] := by
        split <;> simp [*, eq_comm]
      match reason, words with
      | 1, [] | 2, [] | 3, [] | 4, [] =>
        rw [Held.configureWords, range]
        exact (and_iff_left rfl).symm
      | 1, x :: xs | 2, x :: xs | 3, x :: xs | 4, x :: xs => exact ⟨False.elim, fun hw => nomatch ((range _).1 hw).2⟩
      | 5, [n] =>
        rw [Held.configureWords, Option.map_eq_some_iff]
        refine exists_congr fun k => ⟨fun ⟨hk, hn, hrest⟩ => ⟨Configuration.misaligned_iff.2 ⟨hk, hrest⟩, by rw [hn]⟩, fun ⟨hm, hn⟩ => ?_⟩
        obtain ⟨hk, hrest⟩ := Configuration.misaligned_iff.1 hm
        exact ⟨hk, (List.singleton_inj.1 hn).symm, hrest⟩
      | 6, [n, l] =>
        rw [Held.configureWords, Option.map_eq_some_iff]
        refine exists_congr fun k => ⟨fun ⟨hk, hn, hl, hrest⟩ => ⟨Configuration.outside_iff.2 ⟨hk, hrest⟩, by rw [hn, hl]⟩, fun ⟨hm, hn⟩ => ?_⟩
        obtain ⟨hk, hrest⟩ := Configuration.outside_iff.1 hm
        obtain ⟨rfl, rfl⟩ : Word.ofNat k = n ∧ Word.ofNat length = l := by simpa using hn
        exact ⟨hk, rfl, rfl, hrest⟩
      | 7, [n, n'] =>
        rw [Held.configureWords, Option.map_eq_some_iff, Prod.exists]
        refine exists_congr fun k => exists_congr fun k' => ⟨fun ⟨h1, hlt, h4, hn, hn', hmeet, hmeet', hfirst⟩ =>
          ⟨Configuration.overlap_iff.2 ⟨h1, hlt, h4, ⟨hmeet, hmeet'⟩, hfirst⟩, by rw [hn, hn']⟩, fun ⟨hm, hn⟩ => ?_⟩
        obtain ⟨h1, hlt, h4, ⟨hmeet, hmeet'⟩, hfirst⟩ := Configuration.overlap_iff.1 hm
        obtain ⟨rfl, rfl⟩ : Word.ofNat k = n ∧ Word.ofNat k' = n' := by simpa using hn
        exact ⟨h1, hlt, h4, rfl, rfl, hmeet, hmeet', hfirst⟩
      | 5, [] | 5, _ :: _ :: _ | 6, [] | 6, [_] | 6, _ :: _ :: _ :: _ | 7, [] | 7, [_] | 7, _ :: _ :: _ :: _ =>
        exact ⟨False.elim, fun hw => by simp [Held.configureWords] at hw⟩
      | 0, _ | n + 8, _ => exact ⟨False.elim, fun hw => by simp [Held.configureWords] at hw⟩
    have hanswers : answersReasons (h.configureWords length) .badParam 0 (u.checkConfigure h) (· = h.configuration) :=
      State.checkConfigure_answers hidle
    have hpasses {k : Nat} (hk : ∀ ws, ¬fails k ws) : h.configureWords length k = none :=
      Option.eq_none_iff_forall_ne_some.2 fun ws hws => hk ws ((hfails k ws).2 hws)
    refine ⟨fun reason words hfail hearlier => ?_, fun hnone => ?_⟩
    · exact refused (r := (.badParam, Word.ofNat reason :: words))
        (hanswers.refuses ((hfails reason words).1 hfail) fun j hj => hpasses (hearlier j hj))
    · obtain ⟨c, hc, rfl⟩ := hanswers.accepts fun k => hpasses (hnone k)
      rw [hresult, State.workConfigure, hc]
      refine congrArg Host.Outcome.next ((State.settle_configureEffect hready rfl _).trans ?_)
      rfl
  · refine exec_eq_of_onWrite (exec_configurePublicationWriteAnswer hheld hstage .done) ha (AccessOp.written_of_write hop) ?_
    have hfinish : ((s.answered u.window).finish h .ok [Word.ofBool had, old]).ready :=
      State.finish_ready (State.answered_ready hadmitted hplaced u.window) h .ok _
    refine State.settle_eq ?_
    exact (State.waitsAdmitted_congr (s := (s.answered u.window).finish h .ok [Word.ofBool had, old]) rfl rfl rfl).trans hfinish.1

end Sys2Proof.Machine

/-! LOAD_CURVE: its parameters, its image read, its installation reached (R32 to R39). -/
namespace Sys2Proof.Machine

section
variable {s : State} {h : Held}

/-! ### The parameters and the place of the image (R32, R33) -/

/-- With a slot named the three other checks come in order. -/
theorem State.checkLoad_of_index {c : Fin 64} (hc : (h.param 0).toNat = c.val) : s.checkLoad h =
    if (h.param 1).toNat % 4 ≠ 0 then .error (badParam 2)
    else if (h.param 2).toNat < 6 ∨ 131 < (h.param 2).toNat then .error (badParam 3)
    else if s.eng.windowLength.getD 0 < (h.param 1).toNat + 4 * (h.param 2).toNat then
      .error (.outOfWindow, [Word.ofNat (s.eng.windowLength.getD 0)])
    else .ok (c, (h.param 1).toNat, (h.param 2).toNat) := by
  rw [State.checkLoad, toIndex_of_toNat_eq hc]

theorem State.checkLoad_of_badIndex (hc : 64 ≤ (h.param 0).toNat) : s.checkLoad h = .error (badParam 1) := by
  rw [State.checkLoad, toIndex_of_le hc]

section
variable {c : Fin 64} (hc : (h.param 0).toNat = c.val)
include hc

theorem State.checkLoad_of_unaligned (halign : (h.param 1).toNat % 4 ≠ 0) : s.checkLoad h = .error (badParam 2) := by
  rw [State.checkLoad_of_index hc, if_pos halign]

variable (halign : (h.param 1).toNat % 4 = 0)
include halign

theorem State.checkLoad_of_badLength (hlength : (h.param 2).toNat < 6 ∨ 131 < (h.param 2).toNat) :
    s.checkLoad h = .error (badParam 3) := by
  rw [State.checkLoad_of_index hc, if_neg (not_not.2 halign), if_pos hlength]

variable (hleast : 6 ≤ (h.param 2).toNat) (hmost : (h.param 2).toNat ≤ 131)
include hleast hmost

theorem State.checkLoad_of_outside (hend : s.eng.windowLength.getD 0 < (h.param 1).toNat + 4 * (h.param 2).toNat) :
    s.checkLoad h = .error (.outOfWindow, [Word.ofNat (s.eng.windowLength.getD 0)]) := by
  rw [State.checkLoad_of_index hc, if_neg (not_not.2 halign), if_neg (by omega), if_pos hend]

theorem State.checkLoad_of_inside (hend : (h.param 1).toNat + 4 * (h.param 2).toNat ≤ s.eng.windowLength.getD 0) :
    s.checkLoad h = .ok (c, (h.param 1).toNat, (h.param 2).toNat) := by
  rw [State.checkLoad_of_index hc, if_neg (not_not.2 halign), if_neg (by omega), if_neg (Nat.not_lt.2 hend)]

end

/-! ### The image read (R34, R185) -/

/-- An image read that is issued passes the comparison when its word lies in the window. -/
theorem State.settle_imageRead (hs : s.ready) {length : Nat} (hlength : s.eng.windowLength = some length) (clb : Clb) (r : Rqh)
    {o : Nat} (ho : o + 4 ≤ length) :
    (({ s with clb := clb, rqh := r } : State).issue .rqh o .read).settle
      = { s with clb := clb, rqh := r, bip := (s.bip.withRqh o .read).afterGrant s.eng.wbase } :=
  State.settle_issue (u := { s with clb := clb, rqh := r }) .rqh o .read (State.ready_congr hs rfl rfl rfl rfl)
    (State.admits_of_le hlength _ _ _ ho)

theorem State.placed_windowLength (hplaced : s.placed = true) : ∃ length, s.eng.windowLength = some length := by
  unfold State.placed at hplaced
  cases hl : s.eng.windowLength with
  | none => rw [hl] at hplaced; cases hplaced
  | some length => exact ⟨length, rfl⟩

/-- A body under construction without a body of its own gives back no block when it is discarded. -/
theorem Clb.discard_of_buffering {clb : Clb} {b : Building} (hb : clb.building = some b) (hbody : b.body = none) :
    clb.discard = { clb with building := none } := by
  unfold Clb.discard Building.blocks
  rw [hb]
  dsimp only
  rw [hbody, List.append_nil]

theorem State.failDone_read {a : Access} (hop : a.op = .read) : s.failDone a = { s with bip := s.bip.ended } := by
  unfold State.failDone State.failedAccess
  rw [hop]
  rfl

/-- The refusal of a LOAD_CURVE whose image is being read. -/
theorem State.settle_refuseLoad (hs : s.ready) {b : Building} (hb : s.clb.building = some b) (hbody : b.body = none)
    (r : RefusedWith) :
    (s.refuseLoad h r).settle = ({ s with clb := { s.clb with building := none } } : State).finishing h r.1 r.2 := by
  unfold State.refuseLoad
  rw [Clb.discard_of_buffering hb hbody]
  exact State.settle_finish (s := { s with clb := { s.clb with building := none } }) (State.ready_congr hs rfl rfl rfl rfl) h
    r.1 r.2

/-- The failure of an image read refuses the request. -/
theorem State.accessFailed_image {a : Access} (ho : a.owner = .client .rqh) (hheld : s.rqh.held = some h)
    (hstage : h.stage = .imageRead) (kind : FaultKind) :
    s.accessFailed kind a = s.refuseLoad h (imageFailure kind a.offset) := by
  unfold State.accessFailed
  rw [ho]
  dsimp only
  rw [hheld]
  dsimp only
  rw [hstage]

theorem State.isErrorAnswer_image {b : Building} (hheld : s.rqh.held = some h) (hstage : h.stage = .imageRead)
    (hb : s.clb.building = some b) : s.isErrorAnswer (.imageReadAnswer .error) .rqh = true := by
  obtain ⟨slot, kind, ticket, params, _⟩ := h
  obtain rfl := hstage
  simp only [State.isErrorAnswer, answerFails, State.answerer, hheld, hb]
  rfl

/-- Reservation out of the free blocks, none held by the body under construction. -/
theorem Clb.reserve_of_buffering {clb : Clb} {b : Building} (hb : clb.building = some b) (hbody : b.body = none)
    (shape : CurveShape) :
    clb.reserve b shape = { clb with
      free := clb.free.drop shape.blocksNeeded
      building := some { b with body := some ⟨shape, shape.isInvertible, clb.free.take shape.blocksNeeded⟩ } } := by
  unfold Clb.reserve
  rw [Clb.discard_of_buffering hb hbody]

end

/-- Settles O37. -/
theorem loadCurveReadsItsImage : Obligations.LoadCurveReadsItsImage := by
  intro s a h w hheld ha hadmitted hplaced m
  have hs : s.ready := ⟨hadmitted, hplaced⟩
  obtain ⟨size, hsize⟩ := State.placed_windowLength hplaced
  refine ⟨fun hscan hk hop => ?_, fun b hstage hb hbody hop => ⟨fun i code hi => ?_, fun hmore hinside => ?_, fun hlast => ?_⟩⟩
  · intro u result p length
    have hready : u.ready := State.workBegins_ready hs a w
    have hresult : result = .next (u.workLoad h).settle := by
      rw [← State.beginWork_load hk]
      exact exec_lastTakenTicketWriteAnswer_done hscan hheld ha hop
    have refused {r : RefusedWith} (hc : u.checkLoad h = .error r) : result = .next (u.finishing h r.1 r.2) := by
      rw [hresult, State.workLoad, hc]
      exact congrArg Host.Outcome.next (State.settle_finish hready h r.1 r.2)
    have named (hc : p 0 < 64) : ∃ c : Fin 64, (h.param 0).toNat = c.val := ⟨⟨p 0, hc⟩, rfl⟩
    refine ⟨fun hc => refused (State.checkLoad_of_badIndex hc), fun hc halign => ?_, fun hc halign hlength => ?_,
      fun c hc halign hleast hmost => ⟨fun hend => ?_, fun hend hbuilding => ?_⟩⟩
    · obtain ⟨c, hc⟩ := named hc
      exact refused (State.checkLoad_of_unaligned hc halign)
    · obtain ⟨c, hc⟩ := named hc
      exact refused (State.checkLoad_of_badLength hc halign hlength)
    · exact refused (r := (.outOfWindow, [Word.ofNat length])) (State.checkLoad_of_outside (s := u) hc halign hleast hmost hend)
    · rw [hresult, State.workLoad, State.checkLoad_of_inside (s := u) hc halign hleast hmost hend]
      have hopen : u.clb.openBuilding c (p 1) (p 2) = { s.clb with building := some ⟨c, p 1, p 2, [], none⟩ } := by
        unfold Clb.openBuilding Clb.discard
        rw [show u.clb.building = none from hbuilding]
      have hword : p 1 + 4 ≤ size := by
        rw [show length = size by rw [show length = s.eng.windowLength.getD 0 from rfl, hsize]; rfl] at hend
        omega
      refine congrArg Host.Outcome.next ?_
      dsimp only
      rw [← hopen]
      exact State.settle_imageRead hready hsize _ _ hword
  · have hfail : ∃ kind, exec i s = .next ((s.failDone a).accessFailed kind a).settle
        ∧ imageFailure kind a.offset = (.busError, [Word.ofNat a.offset, code]) := by
      rcases hi with ⟨rfl, rfl⟩ | ⟨rfl, rfl⟩
      · refine ⟨.busError, exec_failure ha (.inr ⟨?_, rfl⟩), rfl⟩
        exact State.isErrorAnswer_image hheld hstage hb
      · exact ⟨.timeout, exec_failure ha (.inl ⟨rfl, rfl⟩), rfl⟩
    obtain ⟨kind, hexec, hwords⟩ := hfail
    obtain ⟨-, -, howner⟩ := State.awaited_eq_some.1 ha
    have hready : ({ s with bip := s.bip.ended } : State).ready := State.ended_ready hs rfl rfl
    rw [hexec, State.failDone_read hop, State.accessFailed_image (s := { s with bip := s.bip.ended }) howner hheld hstage, hwords]
    exact congrArg Host.Outcome.next (State.settle_refuseLoad hready hb hbody _)
  all_goals
    have hready := State.answered_ready hadmitted hplaced m
    have harm := exec_imageReadAnswer hheld hstage hb (.word w)
  · refine exec_eq_of_onRead harm ha ?_
    unfold State.imageWordRead
    dsimp only
    rw [if_pos (by simpa using hmore), List.length_append, List.length_singleton]
    refine State.settle_imageRead hready hsize _ _ ?_
    have := hinside size hsize
    omega
  · intro whole v
    have hv : v.ready := State.ready_congr hready rfl rfl rfl rfl
    have hchecks : exec (.imageReadAnswer (.word w)) s = .next (match v.clb.checkImage whole with
        | .error r => v.refuseLoad h r
        | .ok shape => ({ v with clb := v.clb.reserve whole shape } : State).reachApply h (.install b.target)).settle := by
      refine exec_eq_of_onRead harm ha ?_
      unfold State.imageWordRead
      dsimp only
      rw [if_neg (by simpa using hlast)]
      rfl
    refine ⟨fun r hr => ?_, fun shape hshape => ?_⟩
    · rw [hchecks, hr]
      exact congrArg Host.Outcome.next (State.settle_refuseLoad hv rfl hbody r)
    · intro needed
      have hreserved := Clb.reserve_of_buffering (clb := v.clb) (b := whole) rfl hbody shape
      rw [hchecks, hshape]
      refine ⟨_, congrArg (fun clb => Host.Outcome.next (({ v with clb := clb } : State).reachApply h (.install b.target)).settle)
        hreserved, ?_⟩
      exact State.settle_reachApply (s := { v with clb := { v.clb with
        free := v.clb.free.drop needed
        building := some { whole with body := some ⟨shape, shape.isInvertible, v.clb.free.take needed⟩ } } })
        (State.ready_congr hv rfl rfl rfl rfl) h (.install b.target)

end Sys2Proof.Machine

/-! The checks of a curve image (R7, R20, R35 to R38, R191, R193). -/
namespace Sys2Proof.Machine

/-! ### The check word (R193) -/

/-- A register shifted once, in numbers. -/
def shiftedOnce (r : BitVec 16) : BitVec 16 :=
  BitVec.ofNat 16 (2 * r.toNat) ^^^ (if 32768 ≤ r.toNat then 0x1021 else 0)

/-- A byte fed into the register: into its high eight bits, then eight shifts. -/
def fedByte (r : BitVec 16) (byte : Nat) : BitVec 16 :=
  (List.range 8).foldl (fun r _ => shiftedOnce r) (r ^^^ BitVec.ofNat 16 (256 * byte))

theorem checkShift_eq (r : BitVec 16) : checkShift r = shiftedOnce r := by
  have hdouble : r <<< 1 = BitVec.ofNat 16 (2 * r.toNat) := by
    refine BitVec.eq_of_toNat_eq ?_
    rw [BitVec.toNat_shiftLeft, BitVec.toNat_ofNat, Nat.shiftLeft_eq, Nat.mul_comm]
  unfold checkShift shiftedOnce
  rw [hdouble, BitVec.msb_eq_decide]
  by_cases h : 32768 ≤ r.toNat
  · rw [if_pos h, if_pos (decide_eq_true h)]
  · rw [if_neg h, if_neg (by simpa using h)]
    exact BitVec.xor_zero.symm

theorem checkByte_eq (r : BitVec 16) (b : Byte) : checkByte r b = fedByte r b.toNat := by
  have hbyte : (b ++ (0 : Byte) : BitVec 16) = BitVec.ofNat 16 (256 * b.toNat) := by
    refine BitVec.eq_of_toNat_eq ?_
    have := b.isLt
    rw [BitVec.toNat_append, BitVec.toNat_ofNat, Nat.shiftLeft_eq]
    simp
    omega
  unfold checkByte fedByte
  rw [hbyte]
  simp only [checkShift_eq]
  rfl

theorem byteOf_toNat (w : Word) (k : Nat) : (byteOf w k).toNat = w.toNat / 2 ^ (8 * k) % 256 := by
  rw [byteOf, BitVec.extractLsb'_toNat, Nat.shiftRight_eq_div_pow]

/-- A word's bytes are fed low byte first. -/
theorem checkWord_eq (r : BitVec 16) (w : Word) : checkWord r w
    = [w.toNat % 256, w.toNat / 256 % 256, w.toNat / 65536 % 256, w.toNat / 16777216].foldl fedByte r := by
  have hhigh : w.toNat / 16777216 % 256 = w.toNat / 16777216 := Nat.mod_eq_of_lt (by have := w.isLt; omega)
  simp only [checkWord, checkBytes, List.foldl_cons, List.foldl_nil, checkByte_eq, byteOf_toNat]
  simp [hhigh]

/-! ### The shape an image gives (R36, R191) -/

/-- The index of the word at which a SEGMENTED image's x values stop ascending. -/
theorem orderFault_iff (image : List Word) (m : Nat) : ∀ n k : Nat, orderFault n (imagePairs image n k) = some m ↔
    ∃ i, i + 1 < k ∧ (imageWord image (n + 2 * (i + 1))).toInt ≤ (imageWord image (n + 2 * i)).toInt
      ∧ (∀ j < i, (imageWord image (n + 2 * j)).toInt < (imageWord image (n + 2 * (j + 1))).toInt) ∧ m = n + 2 + 2 * i
  | n, 0 => by simp [imagePairs, orderFault]
  | n, 1 => by simp [imagePairs, orderFault]
  | n, k + 2 => by
    have ih := orderFault_iff image m (n + 2) (k + 1)
    rw [imagePairs, imagePairs, orderFault]
    dsimp only
    split
    · next hle =>
      refine ⟨fun h => ⟨0, by omega, hle, fun j hj => absurd hj (by omega), (Option.some_inj.1 h).symm⟩, ?_⟩
      rintro ⟨_ | i, -, -, hasc, rfl⟩
      · rfl
      · exact absurd hle (Int.not_le.2 (hasc 0 (by omega)))
    · next hlt =>
      have shift (i : Nat) : n + 2 + 2 * i = n + 2 * (i + 1) := by omega
      rw [← imagePairs, ih]
      simp only [shift]
      constructor
      · rintro ⟨i, hi, hle, hasc, rfl⟩
        refine ⟨i + 1, by omega, hle, fun j hj => ?_, by omega⟩
        match j with
        | 0 => exact Int.not_le.1 hlt
        | j + 1 => exact hasc j (by omega)
      · rintro ⟨_ | i, hi, hle, hasc, rfl⟩
        · exact absurd hle hlt
        · exact ⟨i, by omega, hle, fun j hj => hasc (j + 1) (by omega), by omega⟩

theorem imagePairs_eq (image : List Word) : ∀ n k : Nat, imagePairs image n k
    = (List.range k).map fun i => ⟨imageWord image (n + 2 * i), imageWord image (n + 1 + 2 * i)⟩
  | _, 0 => rfl
  | n, k + 1 => by
    rw [imagePairs, imagePairs_eq image (n + 2) k, List.range_succ_eq_map, List.map_cons, List.map_map]
    congr 1
    refine List.map_congr_left fun i _ => ?_
    simp only [Function.comp_apply, Nat.succ_eq_add_one]
    congr 2 <;> omega

/-- The kind byte of an image. -/
def imageKind (image : List Word) : Nat := (imageWord image 0).toNat % 256

/-- The count byte of an image. -/
def imageCount (image : List Word) : Nat := (imageWord image 0).toNat / 256 % 256

/-- The index of the word for which the structure check's reason holds. -/
def imageFault (image : List Word) (length : Nat) : Nat → Option Nat
  | 1 => if (imageWord image 0).toNat / 65536 ≠ 0x4356 then some 0 else none
  | 2 => if imageKind image = 0 ∨ 4 < imageKind image then some 0 else none
  | 3 =>
    if (imageKind image = 4 ∧ (imageCount image < 2 ∨ 64 < imageCount image)) ∨ (imageKind image ≠ 4 ∧ imageCount image ≠ 0)
    then some 0 else none
  | 4 =>
    if length ≠ requiredLength (imageKind image) (imageCount image)
    then some (requiredLength (imageKind image) (imageCount image)) else none
  | 5 => parameterFault image (imageKind image)
  | 6 => if imageKind image = 1 ∧ imageWord image 2 = imageWord image 3 then some 3 else none
  | 7 => if imageKind image = 4 then orderFault 2 (imagePairs image 2 (imageCount image)) else none
  | _ => none

/-- The body that an image's words give. -/
def imageGives (image : List Word) (shape : CurveShape) : Prop :=
  shape.kindCode = imageKind image
  ∧ (imageKind image = 1 → shape = .linear2 (imageWord image 2) (imageWord image 3) (imageWord image 4) (imageWord image 5)
      ((imageWord image 1).getLsbD 0))
  ∧ (imageKind image = 2 → shape = .ratio (imageWord image 2) (imageWord image 3) (imageWord image 4))
  ∧ (imageKind image = 3 → shape = .root (imageWord image 2) (imageWord image 3) (imageWord image 4) (imageWord image 5))
  ∧ (imageKind image = 4 → shape.pairs = imagePairs image 2 (imageCount image))

section
variable {image : List Word} {length : Nat}

/-- The structure check's conditions, in order. -/
theorem structureCheck_answers :
    answersReasons (fun k => (imageFault image length k).map fun i => [Word.ofNat i]) .malformed 0
      (structureCheck image length) (imageGives image) := by
  have single {p : Prop} [Decidable p] {i : Nat} : (if p then some i else none).map (fun i => [Word.ofNat i])
      = if p then some [Word.ofNat i] else none := by
    split <;> rfl
  have after (k : Nat) (hk : 8 ≤ k) : (imageFault image length k).map (fun i => [Word.ofNat i]) = none := by
    obtain ⟨n, rfl⟩ := Nat.exists_eq_add_of_le' hk
    rfl
  unfold structureCheck
  dsimp only
  rw [← imageKind, ← imageCount]
  refine .pass rfl (.ite (n := 1) single fun _ => .ite (n := 2) single fun hkind => .ite (n := 3) single fun hcount =>
    .ite (n := 4) single fun _ => ?_)
  cases hpar : parameterFault image (imageKind image) with
  | some i => exact .refuse (n := 5) (congrArg (Option.map _) hpar)
  | none =>
    refine .pass (congrArg (Option.map _) hpar) ?_
    dsimp only
    obtain h | h | h | h : imageKind image = 1 ∨ imageKind image = 2 ∨ imageKind image = 3 ∨ imageKind image = 4 := by omega
    all_goals rw [h]
    · have hequal : (imageFault image length 6).map (fun i => [Word.ofNat i])
          = if imageWord image 2 = imageWord image 3 then some [Word.ofNat 3] else none := by
        rw [imageFault, single]
        simp only [h, true_and]
      refine .ite (n := 6) hequal fun _ => .pass (by simp [imageFault, h]) (.accept ?_ after)
      exact ⟨h.symm, fun _ => rfl, fun h' => by omega, fun h' => by omega, fun h' => by omega⟩
    · refine .pass (by simp [imageFault, h]) (.pass (by simp [imageFault, h]) (.accept ?_ after))
      exact ⟨h.symm, fun h' => by omega, fun _ => rfl, fun h' => by omega, fun h' => by omega⟩
    · refine .pass (by simp [imageFault, h]) (.pass (by simp [imageFault, h]) (.accept ?_ after))
      exact ⟨h.symm, fun h' => by omega, fun h' => by omega, fun _ => rfl, fun h' => by omega⟩
    · have hpairs : imageFault image length 7 = orderFault 2 (imagePairs image 2 (imageCount image)) := if_pos h
      obtain ⟨count, hcount⟩ : ∃ count, imageCount image = count + 1 := Nat.exists_eq_add_of_le' (by omega)
      refine .pass (by simp [imageFault, h]) ?_
      rw [hcount] at hpairs ⊢
      rw [imagePairs] at hpairs ⊢
      show answersReasons _ _ 7 (match orderFault 2 (_ :: _) with
        | some i => .error (malformed 7 i)
        | none => Except.ok (CurveShape.segmented _ _)) _
      cases hfault : orderFault 2 (_ :: _) with
      | some i => exact .refuse (n := 7) (congrArg (Option.map _) (hpairs.trans hfault))
      | none =>
        refine .pass (congrArg (Option.map _) (hpairs.trans hfault)) (.accept ?_ after)
        refine ⟨h.symm, fun h' => by omega, fun h' => by omega, fun h' => by omega, fun _ => ?_⟩
        rw [hcount]
        rfl

end

/-! ### The whole check (R35 to R38) -/

section
variable {clb : Clb} {b : Building}

theorem Clb.checkImage_of_checkFailed (h : b.buffer.getLastD 0 ≠ (checkOfWords b.buffer.dropLast).setWidth 32) :
    clb.checkImage b = .error (.checkFailed, [(checkOfWords b.buffer.dropLast).setWidth 32, b.buffer.getLastD 0]) := by
  unfold Clb.checkImage checkWordTest
  dsimp only
  rw [if_neg h.symm]
  rfl

/-- With the right check word the structure, the binding and the free blocks are checked. -/
theorem Clb.checkImage_of_check (h : b.buffer.getLastD 0 = (checkOfWords b.buffer.dropLast).setWidth 32) :
    clb.checkImage b = structureCheck b.buffer b.length >>= fun shape =>
      bindingCheck clb.slots[b.target] shape >>= fun _ => reservationCheck clb shape >>= fun _ => .ok shape := by
  unfold Clb.checkImage checkWordTest
  dsimp only
  rw [if_pos h.symm]
  rfl

theorem bindingCheck_of_conflict {slot : CurveSlot} {shape : CurveShape} (hbound : 0 < slot.inverseCount)
    (hshape : shape.isInvertible = false) :
    bindingCheck slot shape = .error (.bindingConflict, [Word.ofNat slot.inverseCount]) := if_pos ⟨hbound, hshape⟩

theorem bindingCheck_of_ok {slot : CurveSlot} {shape : CurveShape}
    (h : slot.inverseCount = 0 ∨ shape.isInvertible = true) : bindingCheck slot shape = .ok () := by
  refine if_neg fun ⟨hbound, hshape⟩ => ?_
  rcases h with h | h
  · omega
  · rw [hshape] at h
    cases h

end

/-! ### What an image's words say -/

section
variable {image : List Word} {shape : CurveShape}

theorem CurveShape.pairs_of_kindCode (h : shape.kindCode ≠ 4) : shape.pairs = [] := by
  cases shape with
  | segmented first rest => exact absurd rfl h
  | _ => rfl

theorem imageGives.blocksNeeded (h : imageGives image shape) :
    shape.blocksNeeded = if imageKind image = 4 then (imageCount image + 15) / 16 else 0 := by
  obtain ⟨hcode, -, -, -, hpairs⟩ := h
  unfold CurveShape.blocksNeeded Config.pairsPerBlock
  split
  · next hkind =>
    rw [hpairs hkind, imagePairs_eq]
    simp
  · next hkind =>
    rw [CurveShape.pairs_of_kindCode (hcode ▸ hkind)]
    rfl

/-- RATIO's and ROOT's parameter words in their order. -/
theorem parameterFault_iff {kind index : Nat} : parameterFault image kind = some index ↔
    (kind = 2 ∧ (((imageWord image 2 = 0 ∨ 65535 < (imageWord image 2).toNat) ∧ index = 2)
      ∨ (¬(imageWord image 2 = 0 ∨ 65535 < (imageWord image 2).toNat)
        ∧ (imageWord image 3 = 0 ∨ 65535 < (imageWord image 3).toNat) ∧ index = 3)))
    ∨ (kind = 3 ∧ (((imageWord image 3).msb = true ∧ index = 3)
      ∨ ((imageWord image 3).msb = false ∧ imageWord image 4 = 0 ∧ index = 4))) := by
  have outside (n : Nat) : ((imageWord image n).toNat == 0 || decide (65535 < (imageWord image n).toNat)) = true
      ↔ imageWord image n = 0 ∨ 65535 < (imageWord image n).toNat := by
    rw [Bool.or_eq_true, beq_iff_eq, decide_eq_true_iff]
    exact or_congr_left (BitVec.toNat_inj (y := 0))
  have firstOf {p q : Prop} [Decidable p] [Decidable q] {i j : Nat} : (if p then some i else if q then some j else none) = some index
      ↔ (p ∧ index = i) ∨ (¬p ∧ q ∧ index = j) := by
    split_ifs <;> simp [*, eq_comm]
  unfold parameterFault
  dsimp only
  simp only [outside]
  by_cases h2 : kind = 2
  · subst h2
    rw [if_pos rfl, firstOf]
    simp
  · by_cases h3 : kind = 3
    · subst h3
      rw [if_neg h2, if_pos rfl, firstOf, Bool.not_eq_true]
      simp
    · simp [h2, h3]

theorem requiredLength_eq (kind count : Nat) : requiredLength kind count
    = if kind = 1 then 7 else if kind = 2 then 6 else if kind = 3 then 7 else 3 + 2 * count := by
  match kind with
  | 0 | 1 | 2 | 3 => rfl
  | n + 4 => rw [if_neg (by omega), if_neg (by omega), if_neg (by omega)]; rfl

end

/-- Settles O38. -/
theorem curveImageIsChecked : Obligations.CurveImageIsChecked := by
  refine ⟨⟨fun _ _ yLo yHi _ => ?_, fun _ _ _ => rfl, fun _ _ _ _ => rfl, fun first rest => ?_⟩,
    ⟨checkWord_eq, fun _ => rfl, by decide +kernel⟩, fun clb b hbody => ?_⟩
  · exact bne_iff_ne.trans (not_congr BitVec.toInt_inj.symm)
  · exact Bool.or_eq_true_iff.trans (or_congr (isAscending_iff first rest) (isDescending_iff first rest))
  intro image computed kind count required outside x slot fails
  refine ⟨Clb.checkImage_of_checkFailed, fun hcheck => ?_⟩
  have hchecks := Clb.checkImage_of_check (clb := clb) hcheck
  have hfails (reason index : Nat) : fails reason index ↔ imageFault b.buffer b.length reason = some index := by
    have range {q : Prop} [Decidable q] {i : Nat} : (if q then some i else none) = some index ↔ q ∧ index = i := by
      split <;> simp [*, eq_comm]
    match reason with
    | 1 | 2 => exact range.symm
    | 3 =>
      exact (and_congr_left' ite_prop_iff_or).trans range.symm
    | 4 =>
      refine Iff.trans ?_ range.symm
      rw [requiredLength_eq]
      rfl
    | 5 => exact parameterFault_iff.symm
    | 6 => exact (and_assoc.symm.trans range.symm)
    | 7 => exact (Option.ite_none_right_eq_some.trans (and_congr_right' (orderFault_iff _ _ _ _))).symm
    | 0 | n + 8 => exact ⟨False.elim, fun h => nomatch h⟩
  have hpasses {k : Nat} (hk : ∀ n, ¬fails k n) : (imageFault b.buffer b.length k).map (fun i => [Word.ofNat i]) = none :=
    Option.map_eq_none_iff.2 (Option.eq_none_iff_forall_ne_some.2 fun n hn => hk n ((hfails k n).2 hn))
  have hanswers := structureCheck_answers (image := b.buffer) (length := b.length)
  refine ⟨fun reason index hfail hearlier => ?_, fun hnone => ?_⟩
  · have hrefused := hanswers.refuses (congrArg (Option.map _) ((hfails reason index).1 hfail)) fun j hj => hpasses (hearlier j hj)
    rw [hchecks, hrefused]
    rfl
  · obtain ⟨shape, hshape, hgives⟩ := hanswers.accepts fun k => hpasses (hnone k)
    rw [hshape] at hchecks
    have ⟨hcode, hlinear, hratio, hroot, hpairs⟩ := hgives
    refine ⟨shape, hcode, hlinear, hratio, hroot, fun hkind => ?_, hgives.blocksNeeded,
      fun hbound hinv => ?_, fun hbinding => ⟨fun hfull hbuilding => ?_, fun hroom => ?_⟩⟩
    · exact (hpairs hkind).trans (imagePairs_eq _ 2 _)
    · rw [hchecks]
      show bindingCheck clb.slots[b.target] shape >>= _ = _
      rw [bindingCheck_of_conflict hbound hinv]
      rfl
    all_goals
      replace hchecks : clb.checkImage b = bindingCheck clb.slots[b.target] shape >>= fun _ => reservationCheck clb shape >>= fun _ => .ok shape := hchecks
      rw [hchecks, bindingCheck_of_ok hbinding]
    · have hdiscard : clb.discard.free = clb.free := by rw [Clb.discard_of_buffering hbuilding hbody]
      unfold reservationCheck
      rw [hdiscard, if_pos hfull]
      rfl
    · unfold reservationCheck
      rw [if_neg]
      · rfl
      · rw [clb.discard_spec.2.2, List.length_append]
        omega

end Sys2Proof.Machine

/-! The recorder: events taken, records written, the acknowledge word (R131 to R140). -/
namespace Sys2Proof.Machine

/-! ### The words of a record (R135, R192) -/

/-- Word 1 of a record is the number its fields give. -/
theorem Event.headWord_eq (e : Event) : e.headWord = Word.ofNat (e.kind.code + 256 * e.point.toNat + 65536 * e.aux.toNat) := by
  have hcode : (BitVec.ofNat 8 e.kind.code).toNat = e.kind.code := by
    cases e.kind <;> rfl
  refine BitVec.eq_of_toNat_eq ?_
  rw [Event.headWord, toNat_append_fields, hcode, BitVec.toNat_ofNat]
  have := e.aux.isLt
  have := e.point.isLt
  have : e.kind.code < 256 := by cases e.kind <;> decide
  omega

/-- The fields of word 1 of a LOST record. -/
theorem State.lostEvent_fields (s : State) :
    s.lostEvent.kind.code + 256 * s.lostEvent.point.toNat + 65536 * s.lostEvent.aux.toNat = 10 + 256 * 255 := by
  simp [State.lostEvent, EventKind.code]

/-- Where the words of the record after number `w` stand. -/
theorem Configuration.recordWord_next (c : Configuration) {w : Word} (hw : w ≠ Word.max) (j : Nat) :
    c.recordWord (w + 1) j = c.stripOffset + 16 * (w.toNat % c.stripCapacity) + 4 * j := by
  have hnext : (w + 1).toNat - 1 = w.toNat := by
    have := w.isLt
    have hlast : w.toNat ≠ 4294967295 := fun h => hw (BitVec.eq_of_toNat_eq h)
    rw [BitVec.toNat_add]
    simp
    omega
  rw [Configuration.recordWord, hnext]

section
variable {s : State} {c : Configuration} {e : Event}

/-! ### Steps of the recorder -/

/-- The record of an event is begun. -/
theorem State.beginRecord_eq (hw : s.evr.w ≠ Word.max) (e : Event) (behind : Option Event) :
    s.beginRecord c e behind = { s with
      evr := { s.evr with work := .writing (s.evr.w + 1) e 0 behind }
      bip := s.bip.withEvr (c.stripOffset + 16 * (s.evr.w.toNat % c.stripCapacity) + 4)
        (.write (Word.ofNat (e.kind.code + 256 * e.point.toNat + 65536 * e.aux.toNat))) } := by
  rw [← Event.headWord_eq]
  exact congrArg (fun o => ({ s with
    evr := { s.evr with work := .writing (s.evr.w + 1) e 0 behind }
    bip := s.bip.withEvr o (.write e.headWord) } : State)) (c.recordWord_next hw 1)

/-- The grant after a step of a record. -/
theorem State.settle_recordStep (hs : s.ready) (hc : s.eng.config = some c) (r : Evr) (q : Word) (e : Event) (k : Fin 5)
    (behind : Option Event) :
    (({ s with evr := r } : State).recordStep c q e k behind).settle = { s with
      evr := { r with work := .writing q e k behind }
      bip := (s.bip.withEvr (recordWrite c q e k).1 (.write (recordWrite c q e k).2)).afterGrant s.eng.wbase } :=
  State.settle_issue (u := { s with evr := { r with work := .writing q e k behind } }) .evr _ _
    (State.ready_congr hs rfl rfl rfl rfl) (State.admits_record (s := s) hs.2 hc q e k _)

/-- The grant after the record behind number `w` is begun. -/
theorem State.settle_beginRecord (hs : s.ready) (hc : s.eng.config = some c) {w : Word} (hlast : s.evr.w = w) (hw : w ≠ Word.max)
    (e : Event) (behind : Option Event) :
    (s.beginRecord c e behind).settle = { s with
      evr := { s.evr with work := .writing (w + 1) e 0 behind }
      bip := (s.bip.withEvr (c.stripOffset + 16 * (w.toNat % c.stripCapacity) + 4)
        (.write (Word.ofNat (e.kind.code + 256 * e.point.toNat + 65536 * e.aux.toNat)))).afterGrant s.eng.wbase } := by
  subst hlast
  have hready : (s.beginRecord c e behind).ready :=
    State.issue_ready (s := { s with evr := { s.evr with work := .writing (s.evr.w + 1) e 0 behind } })
      (State.ready_congr hs rfl rfl rfl rfl) .evr _ _ (State.admits_record (s := s) hs.2 hc _ e 0 _)
  rw [State.settle_ready hready, State.beginRecord_eq hw]

/-- The grant after the acknowledge word is asked for. -/
theorem State.settle_readAck (hs : s.ready) (lostFirst : Bool) (e : Event) :
    (s.readAck lostFirst e).settle = { s with
      evr := { s.evr with work := .readingAck lostFirst e }
      bip := (s.bip.withEvr 20 .read).afterGrant s.eng.wbase } :=
  State.settle_control (u := { s with evr := { s.evr with work := .readingAck lostFirst e } }) .evr _ _
    (State.ready_congr hs rfl rfl rfl rfl) (by decide)

theorem Evr.hasRoom_iff {r : Evr} {capacity : Nat} : r.hasRoom capacity = true ↔ (r.w - r.a).toNat < capacity := decide_eq_true_iff

/-- What goes first when an event is begun: the LOST record, or the event's own. -/
def State.firstRecord (s : State) (lostFirst : Bool) (e : Event) : Event := if lostFirst then s.lostEvent else e

/-- What stands behind the record that goes first. -/
def behindFirst (lostFirst : Bool) (e : Event) : Option Event := if lostFirst then some e else none

/-- The recorder begins an event: with room its record, or the LOST record before it; with the view full the acknowledge word is
read (R136, R137, R139). -/
def State.startFirst (s : State) (c : Configuration) (lostFirst : Bool) (e : Event) : State :=
  if (s.evr.w - s.evr.a).toNat < c.stripCapacity then s.beginRecord c (s.firstRecord lostFirst e) (behindFirst lostFirst e)
  else s.readAck lostFirst e

theorem State.startOwn_eq : s.startOwn c e = s.startFirst c false e := by
  unfold State.startOwn State.startFirst
  simp only [Evr.hasRoom_iff]
  rfl

theorem State.startEvent_eq : s.startEvent c e = s.startFirst c (s.evr.pendingDropped != 0) e := by
  unfold State.startEvent
  split
  · next hzero =>
    rw [hzero]
    exact State.startOwn_eq
  · next hpending =>
    have hlost : (s.evr.pendingDropped != 0) = true := bne_iff_ne.2 hpending
    unfold State.startFirst
    rw [hlost]
    simp only [Evr.hasRoom_iff]
    rfl

/-- The test of an acknowledge word touches A and the flag alone (R137). -/
theorem Evr.takeAck_keeps (r : Evr) (capacity : Nat) (v : Word) :
    (r.takeAck capacity v).w = r.w ∧ (r.takeAck capacity v).pendingDropped = r.pendingDropped
    ∧ (r.takeAck capacity v).queue = r.queue ∧ (r.takeAck capacity v).dropped = r.dropped := by
  unfold Evr.takeAck
  split <;> exact ⟨rfl, rfl, rfl, rfl⟩

/-- The acknowledge word tested, room is judged again. -/
theorem State.ackWordRead_eq (lostFirst : Bool) (v : Word) :
    s.ackWordRead c lostFirst e v = let u : State := { s with evr := s.evr.takeAck c.stripCapacity v }
      if (u.evr.w - u.evr.a).toNat < c.stripCapacity then u.beginRecord c (u.firstRecord lostFirst e) (behindFirst lostFirst e)
      else ({ u with evr := u.evr.drop } : State).nextEvent := by
  unfold State.ackWordRead
  dsimp only
  simp only [Evr.hasRoom_iff]
  cases lostFirst <;> rfl

/-- With an empty queue the recorder stays idle. -/
theorem State.nextEvent_of_empty (hqueue : s.evr.queue = []) :
    s.nextEvent = { s with evr := { s.evr with work := .idle } } := by
  unfold State.nextEvent
  rw [hqueue]
  cases s.eng.config with
  | none => rfl
  | some c =>
    dsimp only
    rw [State.takeEvents, ← hqueue]

/-- With the greatest number taken every event of the queue is dropped (R134). -/
theorem State.takeEvents_atLast (es : List Event) (s : State) (hw : s.evr.w = Word.max) :
    State.takeEvents c es s = { s with evr := { s.evr with
      queue := [], work := .idle
      pendingDropped := Word.ofNat (min 0xFFFFFFFF (s.evr.pendingDropped.toNat + es.length))
      dropped := s.evr.dropped + Word.ofNat es.length } } := by
  have hdropped : State.takeEvents c es s = { s with evr := { es.foldl (fun r _ => r.drop) s.evr with queue := [], work := .idle } } := by
    induction es generalizing s with
    | nil => rfl
    | cons e es ih =>
      rw [State.takeEvents, if_pos hw]
      exact ih _ hw
  rw [hdropped, Evr.foldl_drop]

/-- An event handed to an idle recorder is taken at once (R132). -/
theorem State.hand_of_idle (hc : s.eng.config = some c) (hidle : s.evr.work = .idle) (hqueue : s.evr.queue = []) :
    s.hand e = State.takeEvents c [e] { s with evr := { s.evr with queue := [e] } } := by
  unfold State.hand
  rw [hc]
  dsimp only
  rw [hidle, hqueue]
  rfl

theorem State.hand_begins (hc : s.eng.config = some c) (hidle : s.evr.work = .idle) (hqueue : s.evr.queue = [])
    (hw : s.evr.w ≠ Word.max) : s.hand e = s.startFirst c (s.evr.pendingDropped != 0) e := by
  have hsame : ({ s with evr := { s.evr with queue := [] } } : State) = s := by rw [← hqueue]
  rw [State.hand_of_idle hc hidle hqueue, State.takeEvents, if_neg hw, ← State.startEvent_eq]
  exact congrArg (fun t => State.startEvent t c e) hsame

end

/-- Settles O42. -/
theorem eventsAreHanded : Obligations.EventsAreHanded := by
  refine ⟨rfl, fun s e => ⟨fun hc => State.hand_of_no_config hc e, fun c hc => ⟨fun hfull => State.hand_of_full hc e hfull,
    fun hroom hwork => State.hand_of_busy hc e hroom hwork, fun hidle hqueue hw hzero hroom => ?_,
    fun hidle hqueue hw hpending hroom => ?_, fun hidle hqueue hw hfull => ?_, fun hidle hqueue hw => ?_⟩⟩⟩
  · rw [State.hand_begins hc hidle hqueue hw, hzero, State.startFirst, if_pos hroom]
    exact State.beginRecord_eq hw e none
  · rw [State.hand_begins hc hidle hqueue hw, bne_iff_ne.2 hpending, State.startFirst, if_pos hroom]
    refine (State.beginRecord_eq hw s.lostEvent (some e)).trans ?_
    rw [s.lostEvent_fields]
    rfl
  · rw [State.hand_begins hc hidle hqueue hw, State.startFirst, if_neg (Nat.not_lt.2 hfull)]
    rfl
  · rw [State.hand_of_idle hc hidle hqueue, State.takeEvents, if_pos hw, State.takeEvents, ← hqueue, ← hidle]
    rfl

/-! ### The answer to the acknowledge word (R137) -/

section
variable {s : State} {a : Access} {c : Configuration} {lostFirst : Bool} {e : Event} {v : Word} {tested : Evr}
  (hwork : s.evr.work = .readingAck lostFirst e) (ha : s.awaited (.client .evr) = some a) (hc : s.eng.config = some c)
  (hready : s.ready) (htested : s.evr.takeAck c.stripCapacity v = tested)
include hwork ha hc htested

theorem exec_ackWordReadAnswer_word : exec (.ackWordReadAnswer (.word v)) s =
    let u : State := { s.answered (Memory.writeWord s.window (s.busAddress a.offset) v) with evr := tested }
    .next (if (s.evr.w - tested.a).toNat < c.stripCapacity then
        u.beginRecord c (u.firstRecord lostFirst e) (behindFirst lostFirst e)
      else ({ u with evr := tested.drop } : State).nextEvent).settle := by
  subst htested
  refine exec_eq_of_onRead (exec_ackWordReadAnswer hc hwork _) ha ?_
  obtain ⟨hw, -⟩ := s.evr.takeAck_keeps c.stripCapacity v
  rw [State.ackWordRead_eq, ← hw]
  rfl

include hready

theorem ackAnswer_begins (hw : s.evr.w ≠ Word.max) (hroom : (s.evr.w - tested.a).toNat < c.stripCapacity) {first : Event}
    (hfirst : s.firstRecord lostFirst e = first) : exec (.ackWordReadAnswer (.word v)) s = .next { s with
      evr := { tested with work := .writing (s.evr.w + 1) first 0 (behindFirst lostFirst e) }
      window := Memory.writeWord s.window (s.busAddress a.offset) v
      bip := (s.bip.ended.withEvr (c.stripOffset + 16 * (s.evr.w.toNat % c.stripCapacity) + 4)
        (.write (Word.ofNat (first.kind.code + 256 * first.point.toNat + 65536 * first.aux.toNat)))).afterGrant s.eng.wbase } := by
  rw [exec_ackWordReadAnswer_word hwork ha hc htested]
  obtain ⟨hw', hpending, -⟩ := s.evr.takeAck_keeps c.stripCapacity v
  rw [htested] at hw' hpending
  let u : State := { s.answered (Memory.writeWord s.window (s.busAddress a.offset) v) with evr := tested }
  have hu : u.ready := State.ready_congr (State.answered_ready hready.1 hready.2 (Memory.writeWord s.window (s.busAddress a.offset) v)) rfl rfl rfl rfl
  have hufirst : u.firstRecord lostFirst e = first := by
    rw [← hfirst]
    unfold State.firstRecord State.lostEvent
    rw [← hpending]
    rfl
  dsimp only
  rw [if_pos hroom, hufirst, State.settle_beginRecord (s := u) hu hc hw' hw]
  rfl

theorem ackAnswer_full (hroom : ¬(s.evr.w - tested.a).toNat < c.stripCapacity) (hempty : s.evr.queue = []) :
    exec (.ackWordReadAnswer (.word v)) s = .next { s with
      evr := { tested with
        work := .idle
        pendingDropped := if s.evr.pendingDropped = Word.max then Word.max else s.evr.pendingDropped + 1
        dropped := s.evr.dropped + 1 }
      window := Memory.writeWord s.window (s.busAddress a.offset) v
      bip := s.bip.ended.afterGrant s.eng.wbase } := by
  rw [exec_ackWordReadAnswer_word hwork ha hc htested]
  obtain ⟨-, hpending, hqueue, hdropped⟩ := s.evr.takeAck_keeps c.stripCapacity v
  rw [htested] at hpending hqueue hdropped
  let u : State := { s.answered (Memory.writeWord s.window (s.busAddress a.offset) v) with evr := tested }
  have hu : u.ready := State.ready_congr (State.answered_ready hready.1 hready.2 (Memory.writeWord s.window (s.busAddress a.offset) v)) rfl rfl rfl rfl
  have hidle : ({ u with evr := { tested.drop with work := .idle } } : State).ready := State.ready_congr hu rfl rfl rfl rfl
  dsimp only
  rw [if_neg hroom, State.nextEvent_of_empty (s := { u with evr := tested.drop }) (hqueue.trans hempty), State.settle_ready hidle,
    ← hpending, ← hdropped]
  rfl

end

/-- The distance of the acknowledge word, in numbers. -/
theorem Evr.takeAck_eq (r : Evr) (capacity : Nat) (v : Word) : r.takeAck capacity v =
    if (r.w.toNat + 2 ^ 32 - v.toNat) % 2 ^ 32 ≤ capacity then { r with a := v, ackInvalid := false }
    else { r with ackInvalid := true } := by
  have hdistance : (r.w - v).toNat = (r.w.toNat + 2 ^ 32 - v.toNat) % 2 ^ 32 := by
    have := v.isLt
    rw [BitVec.toNat_sub]
    omega
  unfold Evr.takeAck Evr.accepts
  rw [hdistance]
  simp only [decide_eq_true_eq]

/-- Settles O40. -/
theorem ackWordAnswered : Obligations.AckWordAnswered := by
  intro s a c lostFirst e v hwork ha hc hadmitted hplaced tested room m begun
  have hready : s.ready := ⟨hadmitted, hplaced⟩
  have htested : s.evr.takeAck c.stripCapacity v = tested := s.evr.takeAck_eq c.stripCapacity v
  clear_value tested
  refine ⟨fun hw hroom hfirst => ?_, fun hw hroom hfirst => ?_, ackAnswer_full hwork ha hc hready htested, fun hroom => ?_⟩
  · subst hfirst
    exact ackAnswer_begins hwork ha hc hready htested hw hroom rfl
  · subst hfirst
    exact ackAnswer_begins hwork ha hc hready htested hw hroom rfl
  · rw [exec_ackWordReadAnswer_word hwork ha hc htested]
    dsimp only
    rw [if_neg hroom]
    rfl

/-! ### The end of a record (R134, R135, R139) -/

section
variable {s : State} {c : Configuration} {next : Event} {rest : List Event} {lostFirst : Bool}

/-- The state in which the recorder goes on after a record: EVENT raised, its work ended. -/
def State.recordEnded (s : State) (queue : List Event) : State :=
  { s with eng := { s.eng with cause := s.eng.cause ||| 4 }, evr := { s.evr with queue := queue, work := .idle } }

theorem State.recordEnded_ready (hs : s.ready) (queue : List Event) : (s.recordEnded queue).ready :=
  State.ready_congr hs rfl rfl rfl rfl

theorem State.recordFinished_none (hc : s.eng.config = some c) :
    s.recordFinished c none = State.takeEvents c s.evr.queue (s.recordEnded s.evr.queue) := by
  unfold State.recordFinished State.nextEvent
  dsimp only
  rw [show (({ s with evr := { s.evr with work := .idle } } : State).raise .event).eng.config = some c from hc]
  rfl

/-- With the greatest number taken the event behind the record and those of the queue are dropped. -/
theorem State.recordFinished_atLast (hc : s.eng.config = some c) (hw : s.evr.w = Word.max) (behind : Option Event) :
    s.recordFinished c behind = State.takeEvents c (behind.toList ++ s.evr.queue) (s.recordEnded s.evr.queue) := by
  cases behind with
  | none => exact State.recordFinished_none hc
  | some e =>
    unfold State.recordFinished State.nextEvent
    rw [Option.toList_some, List.singleton_append, State.takeEvents, if_pos (by exact hw)]
    dsimp only
    rw [if_pos (by exact hw)]
    rw [show (({ s with evr := { s.evr with work := .idle } } : State).raise .event).eng.config = some c from hc]
    rfl

/-- The event that comes next is begun. -/
theorem State.recordFinished_next (hc : s.eng.config = some c) (hw : s.evr.w ≠ Word.max) {behind : Option Event}
    (h : (behind = none ∧ s.evr.queue = next :: rest ∧ lostFirst = (s.evr.pendingDropped != 0))
      ∨ (behind = some next ∧ s.evr.queue = rest ∧ lostFirst = false)) :
    s.recordFinished c behind = (s.recordEnded rest).startFirst c lostFirst next := by
  rcases h with ⟨rfl, hqueue, rfl⟩ | ⟨rfl, rfl, rfl⟩
  · rw [State.recordFinished_none hc, hqueue, State.takeEvents, if_neg (by exact hw), State.startEvent_eq]
    rfl
  · unfold State.recordFinished
    dsimp only
    rw [if_neg (by exact hw), State.startOwn_eq]
    rfl

end

section
variable {s : State} {a : Access} {c : Configuration} {seq w : Word} {e : Event} {behind : Option Event}
  (ha : s.awaited (.client .evr) = some a) (hop : a.op = .write w) (hc : s.eng.config = some c) (hready : s.ready)
include ha hop hc

theorem exec_highWaterWriteAnswer_done (hwork : s.evr.work = .writing seq e 4 behind) : exec (.highWaterWriteAnswer .done) s
    = .next ((s.answered (Memory.writeWord s.window (s.busAddress a.offset) w)).recordFinished c behind).settle :=
  exec_eq_of_onWrite (exec_highWaterWriteAnswer hc hwork _) ha (AccessOp.written_of_write hop) rfl

include hready

/-- The next word of a record follows. -/
theorem recordWordFollows (k : Fin 3) (hwork : s.evr.work = .writing seq e (k.castLE (by decide)) behind) :
    exec (.recordWordWriteAnswer .done) s = .next { s with
      evr := { s.evr with work := .writing seq e (k.succ.castLE (by decide)) behind }
      window := Memory.writeWord s.window (s.busAddress a.offset) w
      bip := (s.bip.ended.withEvr (recordWrite c seq e (k.succ.castLE (by decide))).1
        (.write (recordWrite c seq e (k.succ.castLE (by decide))).2)).afterGrant s.eng.wbase } := by
  refine exec_eq_of_onWrite (exec_recordWordWriteAnswer_step hc k hwork _) ha (AccessOp.written_of_write hop) ?_
  exact State.settle_recordStep (State.answered_ready hready.1 hready.2 _) hc s.evr seq e _ behind

/-- The high-water word follows word 0. -/
theorem highWaterFollows (hwork : s.evr.work = .writing seq e 3 behind) :
    exec (.recordWordWriteAnswer .done) s = .next { s with
      evr := { s.evr.recordWritten seq e with work := .writing seq e 4 behind }
      window := Memory.writeWord s.window (s.busAddress a.offset) w
      bip := (s.bip.ended.withEvr 36 (.write seq)).afterGrant s.eng.wbase } := by
  refine exec_eq_of_onWrite (exec_recordWordWriteAnswer_number hc hwork _) ha (AccessOp.written_of_write hop) ?_
  exact State.settle_recordStep (State.answered_ready hready.1 hready.2 _) hc (s.evr.recordWritten seq e) seq e 4 behind

theorem recordEnds_empty (hwork : s.evr.work = .writing seq e 4 none) (hqueue : s.evr.queue = []) :
    exec (.highWaterWriteAnswer .done) s = .next { s with
      eng := { s.eng with cause := s.eng.cause ||| 4 }
      evr := { s.evr with work := .idle }
      window := Memory.writeWord s.window (s.busAddress a.offset) w
      bip := s.bip.ended.afterGrant s.eng.wbase } := by
  rw [exec_highWaterWriteAnswer_done ha hop hc hwork, State.recordFinished_none (s := s.answered _) hc,
    show (s.answered (Memory.writeWord s.window (s.busAddress a.offset) w)).evr.queue = [] from hqueue, State.takeEvents]
  have hidle := State.recordEnded_ready (State.answered_ready hready.1 hready.2
    (Memory.writeWord s.window (s.busAddress a.offset) w)) []
  refine congrArg Host.Outcome.next ((State.settle_ready hidle).trans ?_)
  rw [← hqueue]
  rfl

theorem recordEnds_atLast (hwork : s.evr.work = .writing seq e 4 behind) (hw : s.evr.w = Word.max) :
    exec (.highWaterWriteAnswer .done) s = .next { s with
      eng := { s.eng with cause := s.eng.cause ||| 4 }
      evr := { s.evr with
        queue := [], work := .idle
        pendingDropped := Word.ofNat (min 0xFFFFFFFF (s.evr.pendingDropped.toNat + (behind.toList ++ s.evr.queue).length))
        dropped := s.evr.dropped + Word.ofNat (behind.toList ++ s.evr.queue).length }
      window := Memory.writeWord s.window (s.busAddress a.offset) w
      bip := s.bip.ended.afterGrant s.eng.wbase } := by
  rw [exec_highWaterWriteAnswer_done ha hop hc hwork, State.recordFinished_atLast (s := s.answered _) hc hw,
    State.takeEvents_atLast _ _ (by exact hw)]
  refine congrArg Host.Outcome.next (State.settle_ready ?_)
  exact State.ready_congr (State.answered_ready hready.1 hready.2
    (Memory.writeWord s.window (s.busAddress a.offset) w)) rfl rfl rfl rfl

omit hready in
theorem recordEnds_next {next : Event} {rest : List Event} {lostFirst : Bool} (hw : s.evr.w ≠ Word.max)
    (h : (s.evr.work = .writing seq e 4 none ∧ s.evr.queue = next :: rest ∧ lostFirst = (s.evr.pendingDropped != 0))
      ∨ (s.evr.work = .writing seq e 4 (some next) ∧ s.evr.queue = rest ∧ lostFirst = false)) :
    exec (.highWaterWriteAnswer .done) s = .next (((s.answered (Memory.writeWord s.window (s.busAddress a.offset) w)).recordEnded
      rest).startFirst c lostFirst next).settle := by
  rcases h with ⟨hwork, hqueue, hlost⟩ | ⟨hwork, hqueue, hlost⟩
  · rw [exec_highWaterWriteAnswer_done ha hop hc hwork,
      State.recordFinished_next (s := s.answered _) hc hw (.inl ⟨rfl, hqueue, hlost⟩)]
  · rw [exec_highWaterWriteAnswer_done ha hop hc hwork,
      State.recordFinished_next (s := s.answered _) hc hw (.inr ⟨rfl, hqueue, hlost⟩)]

end

/-- Settles O41. -/
theorem recordWordAnswered : Obligations.RecordWordAnswered := by
  intro s a c seq e behind w ha hop hc hadmitted hplaced m place goesOn raised
  have hready : s.ready := ⟨hadmitted, hplaced⟩
  refine ⟨recordWordFollows ha hop hc hready 0, recordWordFollows ha hop hc hready 1, recordWordFollows ha hop hc hready 2,
    highWaterFollows ha hop hc hready, recordEnds_empty ha hop hc hready, fun hwork hw => ?_,
    fun next rest lostFirst w1 hw h => ?_⟩
  · rw [recordEnds_atLast ha hop hc hready hwork hw, List.length_append]
  · have hv := State.recordEnded_ready (State.answered_ready hadmitted hplaced m) rest
    rw [recordEnds_next ha hop hc hw h]
    refine ⟨fun hroom hw1 => ?_, fun hroom => ?_⟩
    · subst hw1
      rw [State.startFirst, if_pos (by exact hroom)]
      exact congrArg Host.Outcome.next (State.settle_beginRecord hv hc rfl hw _ _)
    · rw [State.startFirst, if_neg (by exact hroom)]
      exact congrArg Host.Outcome.next (State.settle_readAck hv lostFirst next)

end Sys2Proof.Machine

/-! The apply steps of the edits (R39, R43, R66, R68, R75, R76, R86 to R89). -/
namespace Sys2Proof.Machine

section
variable {s : State}

/-! ### Curves -/

theorem State.applyInstall_of_body {b : Building} {body : Body} (hb : s.clb.building = some b) (hbody : b.body = some body)
    (c : Fin 64) : s.applyEdit (.install c) = ⟨{ s with clb := s.clb.install c body, ptb := s.ptb.emptyBound c },
      [installedEvent c s.pse.passNumber],
      [Word.ofNat body.blocks.length, (s.clb.install c body).freeWord, Word.ofBool body.invertible, s.pse.passNumber]⟩ := by
  unfold State.applyEdit State.applyInstall
  rw [hb, Option.bind_some, hbody]

/-- Whether a point is bound to a slot, by its definition. -/
theorem Point.boundTo_iff {p : Point} {c : Fin 64} :
    p.boundTo c = true ↔ ∃ d, p.definition = some d ∧ d.curve = some c := by
  unfold Point.boundTo
  cases p.definition <;> simp

theorem Ptb.emptyBound_bound {ptb : Ptb} {c : Fin 64} {i : Fin 256} (h : ptb.points[i].boundTo c = true) :
    (ptb.emptyBound c).points[i] = { ptb.points[i] with history := [] } := by
  unfold Ptb.emptyBound
  simp only [Fin.getElem_fin, tabulate_getElem]
  exact if_pos h

theorem Ptb.emptyBound_other {ptb : Ptb} {c : Fin 64} {i : Fin 256} (h : ¬ptb.points[i].boundTo c = true) :
    (ptb.emptyBound c).points[i] = ptb.points[i] := by
  unfold Ptb.emptyBound
  simp only [Fin.getElem_fin, tabulate_getElem]
  exact if_neg h

end

theorem vector_set_other {α : Type} {n : Nat} (v : Vector α n) {i j : Fin n} (h : j ≠ i) (x : α) : (v.set i x)[j] = v[j] := by
  simp only [Fin.getElem_fin]
  exact Vector.getElem_set_ne _ _ fun heq => h (Fin.ext heq.symm)

theorem vector_set_same {α : Type} {n : Nat} (v : Vector α n) (i : Fin n) (x : α) : (v.set i x)[i] = x := by simp

/-- Settles O43. -/
theorem curveEditsApply : Obligations.CurveEditsApply := by
  intro s c blocks
  have hblocks : s.clb.slots[c].blocks = blocks := rfl
  have hfree : (s.clb.free ++ blocks).length = s.clb.free.length + blocks.length := List.length_append
  refine ⟨fun b body hb hbody => ?_, rfl, vector_set_same _ _ _, fun c' hne => vector_set_other _ hne _, rfl, rfl, rfl, ?_⟩
  · rw [State.applyInstall_of_body hb hbody]
    refine ⟨rfl, vector_set_same _ _ _, fun c' hne => vector_set_other _ hne _, rfl, rfl, fun i d hd hc => Ptb.emptyBound_bound (Point.boundTo_iff.2 ⟨d, hd, hc⟩),
      fun i hnone => Ptb.emptyBound_other fun h => ?_, rfl, ?_⟩
    · obtain ⟨d, hd, hc⟩ := Point.boundTo_iff.1 h
      exact hnone d hd hc
    · rw [← hfree]
      rfl
  · rw [← hfree]
    rfl

/-! ### Points -/

/-- Settles O44. -/
theorem pointEditsApply : Obligations.PointEditsApply := by
  intro s i old one recounts others
  have hone (d : Option PointDef) (c : Fin 64) (dir : Direction) : one d c dir = bindings d c dir := by
    cases d <;> rfl
  have hword : Word.ofBool old.isSome = if old = none then 0 else 1 := by
    cases old <;> rfl
  have hunbound (c : Fin 64) (dir : Direction) :
      (s.clb.unbindPoint old).slots[c].count dir = s.clb.slots[c].count dir - one old c dir := by
    rw [hone]
    exact s.clb.unbindPoint_count old c dir
  have hbound (d : PointDef) (c : Fin 64) (dir : Direction) :
      ((s.clb.unbindPoint old).bindPoint d).slots[c].count dir
        = s.clb.slots[c].count dir - one old c dir + one (some d) c dir := by
    rw [Clb.bindPoint_count, hunbound, hone (some d)]
  obtain ⟨hfree, hbuilding, hbody⟩ := s.clb.unbindPoint_spec old
  refine ⟨fun d => ⟨⟨?_, ?_, fun c => ⟨?_, ?_, ?_⟩⟩, ⟨rfl, rfl, fun j hj => ⟨vector_set_other _ hj _, vector_set_other _ hj _⟩, rfl, ?_⟩,
      vector_set_same _ _ _, ?_⟩,
    ⟨hfree, hbuilding, fun c => ⟨hbody c, ?_, ?_⟩⟩, ⟨rfl, rfl, fun j hj => ⟨vector_set_other _ hj _, vector_set_other _ hj _⟩, rfl, ?_⟩,
    vector_set_same _ _ _, vector_set_same _ _ _⟩
  · exact ((s.clb.unbindPoint old).bindPoint_spec d).1.trans hfree
  · exact ((s.clb.unbindPoint old).bindPoint_spec d).2.1.trans hbuilding
  · exact (((s.clb.unbindPoint old).bindPoint_spec d).2.2 c).trans (hbody c)
  · exact hbound d c .forward
  · exact hbound d c .inverse
  · exact congrArg (fun w => [w, s.pse.passNumber]) hword
  · refine (vector_set_same _ _ _).trans ?_
    rw [PointZone.start_eq, Option.bind_some]
    cases d.zoneSet <;> rfl
  · exact (hunbound c .forward).trans (Nat.add_zero _).symm
  · exact (hunbound c .inverse).trans (Nat.add_zero _).symm
  · exact congrArg (fun w => [w, s.pse.passNumber]) hword

/-! ### Zones -/

/-- Whether a point names a zone set, by its definition. -/
theorem Point.namesZone_eq (p : Point) (z : Fin 64) : p.namesZone z = p.definition.any (fun d => d.zoneSet == some z) := by
  unfold Point.namesZone
  cases p.definition <;> rfl

/-- The LEAVE event of a HELD point that is picked (R76, R88). -/
def State.leaveOf (s : State) (picked : Fin 256 → Bool) (i : Fin 256) : Option Event :=
  let event (k : EventKind) : Event := ⟨k, BitVec.ofNat 8 i.val, s.ptb.points[i].lastOutput, 2, s.pse.passNumber⟩
  if picked i = true ∧ s.zsv.zones[i].state = .highHeld then some (event .highLeave)
  else if picked i = true ∧ s.zsv.zones[i].state = .lowHeld then some (event .lowLeave)
  else none

/-- The events of a move that hands at most one event per point. -/
theorem State.moveZones_events (s : State) (named : Fin 256 → Bool) (move : PointZone → ZoneMove) (event : Fin 256 → Option Event)
    (h : ∀ i, named i = true → (move s.zsv.zones[i]).events.map (zoneEvent i s.ptb.points[i].lastOutput s.pse.passNumber)
      = (event i).toList) (hnone : ∀ i, named i = false → event i = none) :
    (s.moveZones named move).2 = (List.finRange 256).filterMap event := by
  rw [List.filterMap_eq_flatMap_toList]
  refine List.flatMap_congr fun i _ => ?_
  cases hn : named i with
  | true =>
    dsimp only
    rw [if_pos hn]
    exact h i hn
  | false =>
    dsimp only
    rw [if_neg (by simp [hn]), hnone i hn]
    rfl

theorem State.leaveOf_unpicked {s : State} {picked : Fin 256 → Bool} {i : Fin 256} (h : picked i = false) :
    s.leaveOf picked i = none := by
  unfold State.leaveOf
  simp [h]

/-- What the move of a HELD point hands, when it hands nothing of any other. -/
theorem State.leaveOf_picked {s : State} {picked : Fin 256 → Bool} {i : Fin 256} (h : picked i = true) {move : PointZone → ZoneMove}
    (hmove : ∀ p : PointZone, (move p).events = match p.state with
      | .highHeld => [.highLeave] | .lowHeld => [.lowLeave] | _ => []) :
    (move s.zsv.zones[i]).events.map (zoneEvent i s.ptb.points[i].lastOutput s.pse.passNumber) = (s.leaveOf picked i).toList := by
  unfold State.leaveOf
  rw [hmove]
  cases hstate : s.zsv.zones[i].state <;> simp [h, zoneEvent, EventKind.zoneAux]

/-- Settles O45. -/
theorem zoneEditsApply : Obligations.ZoneEditsApply := by
  intro s names leaves size
  have hleaves (picked : Fin 256 → Bool) : leaves picked = (List.finRange 256).filterMap (s.leaveOf picked) := rfl
  refine ⟨fun z v => ?_, fun t => ?_⟩
  · intro r adjusted
    have hnames : (fun i : Fin 256 => s.ptb.points[i].namesZone z) = fun i => names i z :=
      funext fun i => s.ptb.points[i].namesZone_eq z
    have hadjusted (p : PointZone) : (p.adjust v.latch).zone = adjusted p := by
      simp only [PointZone.adjust, adjusted]
      cases p.state <;> cases v.latch <;> rfl
    let s1 : State := { s with zsv := { s.zsv with sets := s.zsv.sets.set z { v with written := true } } }
    have hzones : r.state = (s1.moveZones (fun i => names i z) (fun p => p.adjust v.latch)).1 := by
      rw [← hnames]
      rfl
    have hevents : r.events = (s1.moveZones (fun i => names i z) (fun p => p.adjust v.latch)).2 := by
      rw [← hnames]
      rfl
    have hcount : size (fun i => names i z) = countNamed fun i => s.ptb.points[i].namesZone z := by
      rw [hnames]
      rfl
    have hchanged : size (fun i => names i z && (adjusted s.zsv.zones[i]).state != s.zsv.zones[i].state)
        = countNamed fun i => s.ptb.points[i].namesZone z
          && (s.zsv.zones[i].adjust v.latch).zone.state != s.zsv.zones[i].state := by
      refine congrArg countNamed (funext fun i => ?_)
      rw [hadjusted, s.ptb.points[i].namesZone_eq z]
    refine ⟨?_, ?_, fun z' hz => ?_, fun i => ?_, ?_, ?_⟩
    · rw [hzones]
      rfl
    · rw [hzones]
      exact vector_set_same _ _ _
    · rw [hzones]
      exact vector_set_other _ hz _
    · rw [hzones, ← hadjusted]
      exact s1.moveZones_zones (fun i => names i z) (fun p => p.adjust v.latch) i
    · rw [hevents]
      cases hlatch : v.latch with
      | true =>
        rw [if_pos rfl, s1.moveZones_events _ _ (fun _ => none) (fun i _ => ?_) fun _ _ => rfl, List.filterMap_none]
        unfold PointZone.adjust
        cases s1.zsv.zones[i].state <;> rfl
      | false =>
        rw [if_neg (by decide), hleaves]
        have hleave (p : PointZone) : (p.adjust false).events = match p.state with
            | .highHeld => [.highLeave] | .lowHeld => [.lowLeave] | _ => [] := by
          unfold PointZone.adjust
          cases p.state <;> rfl
        exact s1.moveZones_events _ _ _ (fun i hi => State.leaveOf_picked (s := s) hi hleave) fun i hi => State.leaveOf_unpicked hi
    · rw [hcount, hchanged]
      rfl
  · intro r picked acked
    have hpicked : s.ackNamed t = picked := by
      funext i
      unfold State.ackNamed
      cases t with
      | point j =>
        dsimp only [picked]
        cases s.ptb.points[i].definition <;> rfl
      | zoneSet z => exact s.ptb.points[i].namesZone_eq z
    have hacked (p : PointZone) : p.acknowledge.zone = acked p := by
      obtain ⟨state, mark⟩ := p
      cases state <;> rfl
    have hzones : r.state = (s.moveZones picked PointZone.acknowledge).1 := by
      rw [← hpicked]
      rfl
    have hevents : r.events = (s.moveZones picked PointZone.acknowledge).2 := by
      rw [← hpicked]
      rfl
    have hchanged : size (fun i => picked i && acked s.zsv.zones[i] != s.zsv.zones[i])
        = countNamed fun i => s.ackNamed t i && s.zsv.zones[i].acknowledge.zone != s.zsv.zones[i] := by
      refine congrArg countNamed (funext fun i => ?_)
      rw [hacked, hpicked]
    refine ⟨?_, ?_, fun i => ?_, ?_, ?_⟩
    · rw [hzones]
      rfl
    · rw [hzones]
      rfl
    · rw [hzones, ← hacked]
      exact s.moveZones_zones picked PointZone.acknowledge i
    · rw [hevents, hleaves]
      have hleave (p : PointZone) : p.acknowledge.events = match p.state with
          | .highHeld => [.highLeave] | .lowHeld => [.lowLeave] | _ => [] := by
        unfold PointZone.acknowledge
        cases p.state <;> rfl
      exact s.moveZones_events _ _ _ (fun i hi => State.leaveOf_picked hi hleave) fun i hi => State.leaveOf_unpicked hi
    · rw [hchanged, ← hpicked]
      rfl

end Sys2Proof.Machine

/-! The choice of the work bank (R124), what the guard says of the publication word (R126), and the words of the window that stand
through a step. -/
namespace Sys2Proof.Machine

/-! ### The work bank (R124) -/

theorem Pse.mem_candidates {p : Pse} {hold : Option (Fin 3)} {b : Fin 3} :
    b ∈ p.candidates hold ↔ some b ≠ p.publishedBank ∧ some b ≠ hold := by
  have all : b ∈ ([0, 1, 2] : List (Fin 3)) := by revert b; decide
  simp [Pse.candidates, all]

/-- Of three banks one is neither published nor held. -/
theorem Pse.exists_candidate (p : Pse) (hold : Option (Fin 3)) : ∃ b, b ∈ p.candidates hold := by
  have free : ∀ x y : Option (Fin 3), ∃ b : Fin 3, some b ≠ x ∧ some b ≠ y := by decide
  obtain ⟨b, hb⟩ := free p.publishedBank hold
  exact ⟨b, Pse.mem_candidates.2 hb⟩

theorem Pse.candidates_pairwise (p : Pse) (hold : Option (Fin 3)) : (p.candidates hold).Pairwise (· < ·) :=
  List.Pairwise.filter _ (by decide)

/-- The first entry of a list that passes a test stands before every other that does. -/
theorem idxOf_le_of_find? {l : List (Fin 3)} {p : Fin 3 → Bool} {x y : Fin 3} (h : l.find? p = some x) (hy : p y = true) :
    l.idxOf x ≤ l.idxOf y := by
  obtain ⟨-, before, after, rfl, hbefore⟩ := List.find?_eq_some_iff_append.1 h
  have outside : y ∉ before := fun hmem => by simpa [hy] using hbefore y hmem
  calc (before ++ x :: after).idxOf x ≤ before.length := by
        by_cases hx : x ∈ before
        · rw [List.idxOf_append_of_mem hx]
          exact List.idxOf_le_length
        · rw [List.idxOf_append_of_notMem hx, List.idxOf_cons_self, Nat.add_zero]
    _ ≤ (before ++ x :: after).idxOf y := by
        rw [List.idxOf_append_of_notMem outside]
        exact Nat.le_add_right _ _

/-- The bank chosen: a candidate, and which of them. -/
theorem Pse.chooseBank_spec (p : Pse) (hold : Option (Fin 3)) :
    p.chooseBank hold ∈ p.candidates hold
    ∧ ∀ b ∈ p.candidates hold,
      (b ∉ p.bankOrder → p.chooseBank hold ∉ p.bankOrder ∧ p.chooseBank hold ≤ b)
      ∧ (p.chooseBank hold ∈ p.bankOrder → b ∈ p.bankOrder ∧ p.bankOrder.idxOf (p.chooseBank hold) ≤ p.bankOrder.idxOf b) := by
  unfold Pse.chooseBank
  split
  next x hx =>
    obtain ⟨hmem, hfresh, hfirst⟩ := (find?_eq_some_iff_of_pairwise (fun _ _ => lt_asymm) (p.candidates_pairwise hold)).1 hx
    have hfresh : x ∉ p.bankOrder := by simpa using hfresh
    refine ⟨hmem, fun b hb => ⟨fun hb' => ⟨hfresh, not_lt.1 fun hlt => ?_⟩, fun h => absurd h hfresh⟩⟩
    exact hb' (by simpa using hfirst b hb hlt)
  next hnone =>
    have ordered (b : Fin 3) (hb : b ∈ p.candidates hold) : b ∈ p.bankOrder := by
      simpa using List.find?_eq_none.1 hnone b hb
    obtain ⟨b, hb⟩ := p.exists_candidate hold
    cases hx : p.bankOrder.find? (fun b => (p.candidates hold).contains b) with
    | none => exact absurd hb (by simpa using List.find?_eq_none.1 hx b (ordered b hb))
    | some x =>
      dsimp only [Option.getD_some]
      have hmem : x ∈ p.candidates hold := by simpa using List.find?_some hx
      exact ⟨hmem, fun b' hb' => ⟨fun hn => absurd (ordered b' hb') hn,
        fun _ => ⟨ordered b' hb', idxOf_le_of_find? hx (by simpa using hb')⟩⟩⟩

/-! ### The publication law from the guard (R126) -/

/-- The publication word names a COMPLETE bank of its pass: the published bank, or the bank whose word's write has landed. -/
theorem State.publicationStands.complete_of_named {s : State} {c : Configuration} (h : s.publicationStands c) {w : Word} {b : Fin 3}
    (hw : s.windowWord 28 = some w) (hb : namedBank w = some b) : ∃ n : Word, s.complete c b n ∧ w.toNat / 4 = n.toNat % 2 ^ 30 := by
  obtain ⟨⟨w', hw', hstands⟩, hcomplete, -⟩ := h
  obtain rfl := Option.some.inj (hw.symm.trans hw')
  rcases hstands with ⟨hnamed, hpublished⟩ | ⟨u, n, hu, rfl⟩
  · exact hpublished b (hnamed.symm.trans hb)
  · rw [namedBank_publicationWord] at hb
    obtain rfl := Option.some.inj hb
    exact ⟨n, hcomplete u n hu, publicationPass_publicationWord u n⟩

theorem State.publicationGuard.publicationLaw {s : State} (h : s.publicationGuard) : s.publicationLaw := by
  obtain ⟨-, -, -, -, -, -, hbanks⟩ := h
  intro c w b hc hw hb
  rw [hc] at hbanks
  exact hbanks.2.2.complete_of_named hw ((namedBank_eq_some w b).2 hb)

/-! ### Words that stand -/

/-- A word of `s`'s window that is known stands in `t`'s. -/
def State.keepsWord (s t : State) (offset : Nat) : Prop := ∀ w, s.windowWord offset = some w → t.windowWord offset = some w

/-- The publication word and the words of the banks stand. -/
def State.keepsBanks (s t : State) (c : Configuration) : Prop :=
  s.keepsWord t 28 ∧ ∀ b j, j < 516 → s.keepsWord t (c.bankWord b j)

section
variable {s t u : State} {c : Configuration}

theorem State.keepsWord.of_eq {offset : Nat} (h : t.windowWord offset = s.windowWord offset) : s.keepsWord t offset :=
  fun _ hw => h.trans hw

theorem State.windowWord_congr (window : t.window = s.window) (wbase : t.eng.wbase = s.eng.wbase) (offset : Nat) :
    t.windowWord offset = s.windowWord offset := by
  unfold State.windowWord
  rw [window, wbase]

theorem State.keepsBanks.of_window (window : t.window = s.window) (wbase : t.eng.wbase = s.eng.wbase) : s.keepsBanks t c :=
  ⟨.of_eq (State.windowWord_congr window wbase _), fun _ _ _ => .of_eq (State.windowWord_congr window wbase _)⟩

theorem State.keepsBanks.trans (h : s.keepsBanks t c) (h' : t.keepsBanks u c) : s.keepsBanks u c :=
  ⟨fun w hw => h'.1 w (h.1 w hw), fun b j hj w hw => h'.2 b j hj w (h.2 b j hj w hw)⟩

theorem State.keepsBanks.complete (h : s.keepsBanks t c) {b : Fin 3} {n : Word} (hs : s.complete c b n) : t.complete c b n :=
  ⟨hs.1.imp (h.2 b 0 (by decide) _) (h.2 b 0 (by decide) _), h.2 b 1 (by decide) _ hs.2⟩

/-- A word is known exactly when its bytes are, and then it is the word of its bytes. -/
theorem Memory.readWord_mono {m m' : Memory} {x : Nat} {w : Word}
    (h : ∀ i < 4, ∀ b, Memory.readByte m (x + i) = some b → Memory.readByte m' (x + i) = some b) (hw : Memory.readWord m x = some w) :
    Memory.readWord m' x = some w := by
  unfold Memory.readWord at hw ⊢
  split at hw
  next b0 b1 b2 b3 h0 h1 h2 h3 =>
    rw [show Memory.readByte m' x = some b0 from h 0 (by decide) b0 h0, h 1 (by decide) b1 h1, h 2 (by decide) b2 h2, h 3 (by decide) b3 h3]
    exact hw
  · cases hw

/-- A read that finds the banks as the part knows them leaves their words. -/
theorem State.banksReadAsKnown.keepsBanks (h : s.banksReadAsKnown t) (wbase : t.eng.wbase = s.eng.wbase) {a : Access}
    (hin : s.bip.inFlight = some a) (hop : a.op = .read) (hc : s.eng.config = some c) : s.keepsBanks t c := by
  have stands {x : Nat} (hx : (28 ≤ x ∧ x + 4 ≤ 32) ∨ (c.bankOffset ≤ x ∧ x + 4 ≤ c.bankOffset + 6192)) : s.keepsWord t x := by
    intro w hw
    unfold State.windowWord at hw ⊢
    rw [wbase]
    refine Memory.readWord_mono (fun i hi b hb => ?_) hw
    rw [Nat.add_assoc] at hb ⊢
    exact h a c hin hop hc (x + i) b (by omega) hb
  exact ⟨stands (.inl ⟨by decide, by decide⟩), fun b j hj => stands (.inr (c.bankWord_inside b hj))⟩

theorem State.banksReadAsKnown.of_window (h : s.banksReadAsKnown t) (window : t.window = u.window) : s.banksReadAsKnown u := by
  unfold State.banksReadAsKnown
  rw [← window]
  exact h

/-- A write outside the publication word and the banks leaves their words. -/
theorem State.placeWord_keepsBanks (hb : s.bip.base = s.eng.wbase) {offset : Nat} (w : Word)
    (h28 : offset + 4 ≤ 28 ∨ 32 ≤ offset) (hbanks : offset + 4 ≤ c.bankOffset ∨ c.bankOffset + 6192 ≤ offset) :
    s.keepsBanks (s.placeWord offset w) c := by
  refine ⟨.of_eq (State.windowWord_placeWord_other hb _ _ _ (by omega)), fun b j hj =>
    .of_eq (State.windowWord_placeWord_other hb _ _ _ ?_)⟩
  have := c.bankWord_inside b hj
  omega

end

end Sys2Proof.Machine

/-! The guard of the publication law in parts, and what each change of the state has to show to keep it. -/
namespace Sys2Proof.Machine

/-! ### The guard in parts -/

/-- What the publication word and the COMPLETE headers hold by the publication state (R122, R125 to R129). -/
def State.wordsStand (s : State) (c : Configuration) : Prop :=
  (∃ w, s.windowWord 28 = some w
    ∧ ((namedBank w = s.pse.publishedBank
        ∧ ∀ b, s.pse.publishedBank = some b → ∃ n : Word, s.complete c b n ∧ w.toNat / 4 = n.toNat % 2 ^ 30)
      ∨ ∃ u n, s.pse.unconfirmed = some (u, n) ∧ w = publicationWord u.val n))
  ∧ ∀ u n, s.pse.unconfirmed = some (u, n) → s.complete c u n

/-- The bank that the pass builds is not the published one, and no bank is unconfirmed. -/
def Pse.builds (p : Pse) : Prop := p.unconfirmed = none ∧ p.publishedBank ≠ some p.workBank

/-- What a stage of the pass rests on. -/
def State.stageStands (s : State) (c : Configuration) : PassStage → Prop
  | .startStamp | .unconfirmedRead => True
  | .holdRead => s.pse.unconfirmed = none
  | .fillingHeader _ | .inputRead _ | .entryValue .. | .entryQuality .. | .endStamp => s.pse.builds
  | .completeHeader k =>
    s.pse.builds ∧ (k ≠ 0 → s.windowWord (c.bankWord s.pse.workBank 1) = some s.pse.passNumber)
  | .publicationWrite => s.pse.unconfirmed = some (s.pse.workBank, s.pse.passNumber)

theorem State.publicationStands_iff {s : State} {c : Configuration} :
    s.publicationStands c ↔ s.wordsStand c ∧ ∀ stage, s.pse.pass = some stage → s.stageStands c stage := by
  unfold State.publicationStands State.wordsStand
  rw [and_assoc]
  refine and_congr_right fun _ => and_congr_right fun _ => ?_
  cases hp : s.pse.pass with
  | none => simp
  | some stage => cases stage <;> simp [State.stageStands, Pse.builds, and_assoc]

/-- The guard, with the owners of the waiting accesses, in the form in which each part is shown. -/
structure State.Guarded (s : State) : Prop where
  base : s.bip.inFlight ≠ none → s.bip.disregard = false → s.bip.base = s.eng.wbase
  one : s.bip.waitPse = none ∨ s.awaited (.client .pse) = none
  pse : ∀ a, s.outstanding .pse a → s.passAccess a
  rqh : ∀ a w, s.outstanding .rqh a → a.op.written = some w → 40 ≤ a.offset ∧ a.offset + 4 ≤ 1088
  evr : ∀ a w, s.outstanding .evr a → a.op.written = some w → ∃ c, s.eng.config = some c
    ∧ (a.offset = 36 ∨ (c.stripOffset ≤ a.offset ∧ a.offset + 4 ≤ c.stripOffset + 16 * c.stripCapacity))
  configuring : ∀ new, s.rqh.configuring = some new →
    s.eng.config = none ∧ s.rqh.scan = none ∧ new.apart ∧ s.pse.bankOrder = [] ∧ s.pse.unconfirmed = none
  idle : s.eng.config = none → s.pse.pass = none ∧ s.pse.timer = none
  stands : ∀ c, s.eng.config = some c → c.apart ∧ s.bip.disregard = false ∧ s.publicationStands c
  owned : ∀ c a, s.bip.waiting c = some a → a.owner = .client c
  waitEng : ∀ a, s.bip.waitEng = some a → a.owner = .eng

theorem Rqh.exists_of_configuring {r : Rqh} {c : Configuration} (h : r.configuring = some c) :
    ∃ x had old, r.held = some x ∧ x.stage = .configureWrite c had old := by
  unfold Rqh.configuring at h
  split at h
  next hheld =>
    cases h
    exact ⟨_, _, _, hheld, rfl⟩
  · cases h

section
variable {s t u : State} {c : Configuration}

theorem State.Guarded.guard (h : s.Guarded) : s.publicationGuard := by
  refine ⟨h.base, h.one, h.pse, h.rqh, h.evr, fun x new had old hx hstage => ?_, ?_⟩
  · exact h.configuring new (Rqh.configuring_of_stage hx hstage)
  · split
    next hc => exact h.idle hc
    next c hc => exact h.stands c hc

theorem State.publicationGuard.guarded (h : s.publicationGuard) (owned : ∀ c a, s.bip.waiting c = some a → a.owner = .client c)
    (waitEng : ∀ a, s.bip.waitEng = some a → a.owner = .eng) : s.Guarded := by
  obtain ⟨hbase, hone, hpse, hrqh, hevr, hconfiguring, hbanks⟩ := h
  refine ⟨hbase, hone, hpse, hrqh, hevr, fun new hnew => ?_, fun hc => ?_, fun c hc => ?_, owned, waitEng⟩
  · obtain ⟨x, had, old, hx, hstage⟩ := Rqh.exists_of_configuring hnew
    exact hconfiguring x new had old hx hstage
  · rw [hc] at hbanks
    exact hbanks
  · rw [hc] at hbanks
    exact hbanks

theorem State.engineLaw.guarded (he : s.engineLaw) (h : s.publicationGuard) : s.Guarded := by
  obtain ⟨-, -, -, -, -, -, -, hwaitEng, howned, -⟩ := he
  exact h.guarded howned fun a ha => (hwaitEng a ha).1

/-! ### What the publication state depends on -/

/-- PSE stands but for what no access and no header depends on. -/
structure Pse.SameStage (p q : Pse) : Prop where
  pass : q.pass = p.pass
  order : q.bankOrder = p.bankOrder
  unconfirmed : q.unconfirmed = p.unconfirmed
  work : q.workBank = p.workBank
  number : q.passNumber = p.passNumber
  header : ∀ k, q.completeWrite k = p.completeWrite k

theorem Pse.SameStage.refl (p : Pse) : p.SameStage p := ⟨rfl, rfl, rfl, rfl, rfl, fun _ => rfl⟩

theorem Pse.SameStage.of_eq {p q : Pse} (h : q = p) : p.SameStage q := by
  subst h
  exact .refl q

/-- The words stand with the banks while the publication state does. -/
theorem State.wordsStand.keep (h : s.wordsStand c) (banks : s.keepsBanks t c) (order : t.pse.bankOrder = s.pse.bankOrder)
    (unconfirmed : t.pse.unconfirmed = s.pse.unconfirmed) : t.wordsStand c := by
  obtain ⟨⟨w, hw, hword⟩, hcomplete⟩ := h
  have published : t.pse.publishedBank = s.pse.publishedBank := by
    unfold Pse.publishedBank
    rw [order]
  refine ⟨⟨w, banks.1 w hw, ?_⟩, fun b n hb => banks.complete (hcomplete b n (unconfirmed ▸ hb))⟩
  rw [published, unconfirmed]
  refine hword.imp_left fun ⟨hnamed, hheader⟩ => ⟨hnamed, fun b hb => ?_⟩
  obtain ⟨n, hn, hpass⟩ := hheader b hb
  exact ⟨n, banks.complete hn, hpass⟩

theorem State.stageStands.keep {stage : PassStage} (h : s.stageStands c stage) (banks : s.keepsBanks t c)
    (same : s.pse.SameStage t.pse) : t.stageStands c stage := by
  obtain ⟨-, horder, hunconfirmed, hwork, hnumber, -⟩ := same
  have builds : s.pse.builds → t.pse.builds := by
    unfold Pse.builds Pse.publishedBank
    rw [horder, hunconfirmed, hwork]
    exact id
  cases stage with
  | startStamp => trivial
  | unconfirmedRead => trivial
  | holdRead => exact hunconfirmed.trans h
  | completeHeader k =>
    refine ⟨builds h.1, fun hk => ?_⟩
    rw [hwork, hnumber]
    exact banks.2 _ 1 (by decide) _ (h.2 hk)
  | publicationWrite =>
    have h : s.pse.unconfirmed = _ := h
    show t.pse.unconfirmed = _
    rw [hunconfirmed, hwork, hnumber]
    exact h
  | _ => exact builds h

theorem State.publicationStands.keep (h : s.publicationStands c) (banks : s.keepsBanks t c) (same : s.pse.SameStage t.pse) :
    t.publicationStands c := by
  rw [State.publicationStands_iff] at h ⊢
  exact ⟨h.1.keep banks same.order same.unconfirmed, fun stage hstage => (h.2 stage (same.pass ▸ hstage)).keep banks same⟩

theorem State.passAccess.keep {a : Access} (h : s.passAccess a) (config : t.eng.config = s.eng.config)
    (same : s.pse.SameStage t.pse) (held : s.rqh.configuring ≠ none → t.rqh.held = s.rqh.held) : t.passAccess a := by
  obtain ⟨hpass, -, -, hwork, hnumber, hheader⟩ := same
  unfold State.passAccess at h ⊢
  rw [config]
  cases hc : s.eng.config with
  | none =>
    rw [hc] at h
    obtain ⟨hoffset, hop, x, new, had, old, hx, hstage⟩ := h
    refine ⟨hoffset, hop, x, new, had, old, (held ?_).trans hx, hstage⟩
    rw [Rqh.configuring_of_stage hx hstage]
    exact nofun
  | some c =>
    rw [hc] at h
    dsimp only at h ⊢
    rw [hpass]
    cases hp : s.pse.pass with
    | none =>
      rw [hp] at h
      exact h
    | some stage =>
      rw [hp] at h
      cases stage <;> simpa only [hwork, hnumber, hheader] using h

/-- What PSE issues is its stage's. -/
theorem Access.ofPse.passAccess {a : Access} (h : a.ofPse s.pse s.eng.config) (idle : s.eng.config = none → s.pse.pass = none) :
    s.passAccess a := by
  obtain ⟨-, h⟩ := h
  unfold State.passAccess
  cases hc : s.eng.config with
  | none =>
    unfold Pse.awaits at h
    rw [idle hc] at h
    exact h.elim
  | some c =>
    unfold Pse.awaits at h
    rw [hc] at h
    dsimp only
    cases hp : s.pse.pass with
    | none =>
      rw [hp] at h
      exact h
    | some stage =>
      rw [hp] at h
      cases stage with
      | startStamp => exact h.2
      | endStamp => exact h.2
      | holdRead => exact h.2
      | unconfirmedRead => exact h
      | publicationWrite => exact h
      | inputRead i =>
        obtain ⟨-, -, hop, -⟩ := h
        exact hop
      | completeHeader k =>
        obtain ⟨c', hc', h⟩ := h
        cases hc'
        exact h
      | _ =>
        obtain ⟨c', w, hc', hoffset, hop⟩ := h
        cases hc'
        exact ⟨hoffset, w, hop⟩

/-! ### BIP alone changes -/

/-- Outstanding accesses that remain are guarded as before. -/
theorem State.Guarded.of_bip (h : s.Guarded) {b : Bip} (base : b.inFlight ≠ none → b.disregard = false → b.base = s.eng.wbase)
    (one : b.waitPse = none ∨ ({ s with bip := b } : State).awaited (.client .pse) = none)
    (remain : ∀ x a, ({ s with bip := b } : State).outstanding x a → s.outstanding x a)
    (disregard : s.bip.disregard = false → b.disregard = false)
    (owned : ∀ x a, b.waiting x = some a → a.owner = .client x) (waitEng : ∀ a, b.waitEng = some a → a.owner = .eng) :
    ({ s with bip := b } : State).Guarded := by
  refine ⟨base, one, fun a ha => ?_, fun a w ha => h.rqh a w (remain _ _ ha), fun a w ha => h.evr a w (remain _ _ ha),
    h.configuring, h.idle, fun c hc => ?_, owned, waitEng⟩
  · exact (h.pse a (remain _ _ ha)).keep (t := { s with bip := b }) rfl (.refl _) fun _ => rfl
  · obtain ⟨hapart, hdis, hstands⟩ := h.stands c hc
    exact ⟨hapart, disregard hdis, hstands.keep (t := { s with bip := b }) (.of_window rfl rfl) (.refl _)⟩

theorem State.outstanding_of_inFlight_none {x : Client} {a : Access} (hin : s.bip.inFlight = none) (h : s.outstanding x a) :
    s.bip.waiting x = some a := by
  refine h.resolve_right fun ha => ?_
  have := (State.awaited_eq_some.1 ha).1
  rw [hin] at this
  cases this

theorem State.awaited_of_inFlight_none {o : Owner} (hin : s.bip.inFlight = none) : s.awaited o = none := by
  unfold State.awaited
  rw [hin]

/-- Waiting accesses that are withdrawn, none being in flight. -/
theorem State.Guarded.of_waiting (h : s.Guarded) {b : Bip} (hin : b.inFlight = none) (disregard : b.disregard = s.bip.disregard)
    (waiting : ∀ x, b.waiting x = none ∨ b.waiting x = s.bip.waiting x)
    (waitEng : b.waitEng = none ∨ b.waitEng = s.bip.waitEng) :
    ({ s with bip := b } : State).Guarded := by
  have remains {x : Client} {a : Access} (ha : b.waiting x = some a) : s.bip.waiting x = some a := by
    rcases waiting x with hx | hx
    · rw [hx] at ha; cases ha
    · exact hx ▸ ha
  refine h.of_bip (fun hne => absurd hin hne) (.inr (State.awaited_of_inFlight_none hin)) (fun x a ha => .inl (remains ?_))
    (fun hd => disregard.trans hd) (fun x a ha => h.owned x a (remains ha)) fun a ha => ?_
  · exact State.outstanding_of_inFlight_none (s := { s with bip := b }) hin ha
  · rcases waitEng with hw | hw
    · rw [hw] at ha; cases ha
    · exact h.waitEng a (hw ▸ ha)

theorem State.Guarded.unwait (h : s.Guarded) (hin : s.bip.inFlight = none) (a : Access) :
    ({ s with bip := s.bip.unwait a } : State).Guarded := by
  obtain ⟨hwaitEng, hwaiting⟩ := s.bip.waiting_unwait a
  refine h.of_waiting ((s.bip.unwait_inFlight a).trans hin) ?_ hwaiting hwaitEng
  unfold Bip.unwait
  split
  · rfl
  · exact (s.bip.setWaiting_frame _ none).2.1

/-- The access granted leaves the waiting accesses. -/
theorem State.Guarded.grant (h : s.Guarded) {a : Access} (ha : s.bip.next = some a) : (s.grant a).Guarded := by
  have flight {x : Client} {y : Access} (hy : (s.grant a).awaited (.client x) = some y) : y = a ∧ a.owner = .client x := by
    obtain ⟨hin, -, ho⟩ := State.awaited_eq_some.1 hy
    cases hin
    exact ⟨rfl, ho⟩
  have source {x : Client} (ho : a.owner = .client x) : s.bip.waiting x = some a := by
    rcases Bip.next_eq_some ha with hw | ⟨y, hw⟩
    · rw [h.waitEng a hw] at ho
      cases ho
    · rw [h.owned y a hw] at ho
      cases ho
      exact hw
  have waits (x : Client) : (s.grant a).bip.waiting x = (s.bip.unwait a).waiting x := by cases x <;> rfl
  have remains {x : Client} {y : Access} (hy : (s.grant a).bip.waiting x = some y) : s.bip.waiting x = some y := by
    rw [waits] at hy
    rcases (s.bip.waiting_unwait a).2 x with hx | hx
    · rw [hx] at hy; cases hy
    · exact hx ▸ hy
  refine h.of_bip (b := (s.grant a).bip) (fun _ _ => rfl) ?_ (fun x y hy => ?_) (fun _ => rfl) (fun x y hy => h.owned x y (remains hy))
    fun y hy => ?_
  · cases hp : (s.grant a).awaited (.client .pse) with
    | none => exact .inr hp
    | some y =>
      refine .inl ?_
      show (s.bip.unwait a).waitPse = none
      unfold Bip.unwait
      rw [(flight hp).2]
      rfl
  · rcases hy with hy | hy
    · exact .inl (remains hy)
    · obtain ⟨rfl, ho⟩ := flight hy
      exact .inl (source ho)
  · have hy : (s.bip.unwait a).waitEng = some y := hy
    rcases (s.bip.waiting_unwait a).1 with hx | hx
    · rw [hx] at hy; cases hy
    · exact h.waitEng y (hx ▸ hy)

/-! ### Clients issue -/

theorem Bip.Issued.awaited {R P E : Access → Prop} (h : Bip.Issued R P E s.bip t.bip) (o : Owner) : t.awaited o = s.awaited o := by
  unfold State.awaited
  rw [h.inFlight, h.disregard]

/-- The words of EVR's records lie in the high-water word or in the strip. -/
theorem recordWrite_place (c : Configuration) (apart : c.apart) (seq : Word) (e : Event) (k : Fin 5) :
    (recordWrite c seq e k).1 = 36
    ∨ (c.stripOffset ≤ (recordWrite c seq e k).1 ∧ (recordWrite c seq e k).1 + 4 ≤ c.stripOffset + 16 * c.stripCapacity) := by
  have := Nat.mod_lt (seq.toNat - 1) apart.2.2.1
  unfold recordWrite Configuration.recordWord
  split
  case h_5 => exact .inl rfl
  all_goals
    dsimp only
    exact .inr ⟨by omega, by omega⟩

/-- Work that issues accesses keeps the guard when the stage that PSE comes to stands. -/
theorem State.Guarded.goes (h : s.Guarded) (issues : s.Issues t) (config : t.eng.config = s.eng.config)
    (wbase : t.eng.wbase = s.eng.wbase) (access : ∀ a, s.outstanding .pse a → t.passAccess a)
    (fresh : t.bip.waitPse = s.bip.waitPse ∨ s.awaited (.client .pse) = none)
    (configuring : ∀ new, t.rqh.configuring = some new → s.rqh.configuring = some new ∧ t.rqh.scan = none
      ∧ t.pse.bankOrder = s.pse.bankOrder ∧ t.pse.unconfirmed = s.pse.unconfirmed)
    (idle : s.eng.config = none → t.pse.pass = none ∧ t.pse.timer = none)
    (stands : ∀ c, s.eng.config = some c → t.publicationStands c) : t.Guarded := by
  have idle' (hc : t.eng.config = none) : t.pse.pass = none ∧ t.pse.timer = none := idle (config ▸ hc)
  refine ⟨fun hin hd => ?_, ?_, fun a ha => ?_, fun a w ha hw => ?_, fun a w ha hw => ?_, fun new hnew => ?_, idle',
    fun c hc => ?_, fun x a ha => ?_, fun a ha => h.waitEng a (issues.waitEng ▸ ha)⟩
  · rw [issues.base, wbase]
    exact h.base (issues.inFlight ▸ hin) (issues.disregard ▸ hd)
  · rw [issues.awaited]
    rcases fresh with hf | hf
    · exact hf ▸ h.one
    · exact .inr hf
  · rcases ha with ha | ha
    · have ha : t.bip.waitPse = some a := ha
      rcases issues.pse with hp | ⟨x, hx, hof⟩
      · exact access a (.inl (hp.symm.trans ha))
      · rw [hx] at ha
        cases ha
        exact Access.ofPse.passAccess (config ▸ hof) fun hc => (idle' hc).1
    · exact access a (.inr (issues.awaited _ ▸ ha))
  · rcases ha with ha | ha
    · have ha : t.bip.waitRqh = some a := ha
      rcases issues.rqh with hr | ⟨x, hx, hof⟩
      · exact h.rqh a w (.inl (hr.symm.trans ha)) hw
      · rw [hx] at ha
        cases ha
        rcases hof with hof | hof
        · exact hof.2
        · rw [hof.2.1] at hw
          cases hw
    · exact h.rqh a w (.inr (issues.awaited _ ▸ ha)) hw
  · rw [config]
    rcases ha with ha | ha
    · have ha : t.bip.waitEvr = some a := ha
      rcases issues.evr with hr | ⟨x, hx, hof⟩
      · exact h.evr a w (.inl (hr.symm.trans ha)) hw
      · rw [hx] at ha
        cases ha
        rcases hof with ⟨-, ⟨-, hop⟩ | ⟨c, seq, e, k, v, hc, hoffset, -⟩⟩
        · rw [hop] at hw
          cases hw
        · exact ⟨c, hc, hoffset ▸ recordWrite_place c (h.stands c hc).1 seq e k⟩
    · exact h.evr a w (.inr (issues.awaited _ ▸ ha)) hw
  · obtain ⟨hs, hscan, horder, hunconfirmed⟩ := configuring new hnew
    obtain ⟨hc, -, hapart, hs'⟩ := h.configuring new hs
    exact ⟨config.trans hc, hscan, hapart, horder.trans hs'.1, hunconfirmed.trans hs'.2⟩
  · have hc := config ▸ hc
    obtain ⟨hapart, hd, -⟩ := h.stands c hc
    exact ⟨hapart, issues.disregard.trans hd, stands c hc⟩
  · have own {z y : Option Access} {Q : Access → Prop} {x : Client} (hz : ∀ a, z = some a → a.owner = .client x)
        (hy : y = z ∨ ∃ a, y = some a ∧ Q a) (hQ : ∀ a, Q a → a.owner = .client x) (a : Access) (ha : y = some a) :
        a.owner = .client x := by
      rcases hy with rfl | ⟨a', ha', hq⟩
      · exact hz a ha
      · rw [ha'] at ha
        cases ha
        exact hQ _ hq
    cases x with
    | rqh => exact own (h.owned .rqh) issues.rqh (fun _ hq => hq.elim (·.1) (·.1)) a ha
    | pse => exact own (h.owned .pse) issues.pse (fun _ hq => hq.1) a ha
    | evr => exact own (h.owned .evr) issues.evr (fun _ hq => hq.1) a ha

/-- Work of RQH and EVR, which leaves the pass where it is. -/
theorem State.Guarded.requests (h : s.Guarded) (issues : s.RequestIssues t) (config : t.eng.config = s.eng.config)
    (wbase : t.eng.wbase = s.eng.wbase) (window : t.window = s.window) (same : s.pse.SameStage t.pse)
    (timer : s.eng.config = none → t.pse.timer = s.pse.timer)
    (held : s.rqh.configuring ≠ none → t.rqh.held = s.rqh.held ∧ t.rqh.scan = s.rqh.scan)
    (configuring : ∀ new, t.rqh.configuring = some new → s.rqh.configuring = some new) : t.Guarded := by
  refine h.goes issues.issues config wbase (fun a ha => (h.pse a ha).keep config same fun hc => (held hc).1) (.inl ?_)
    (fun new hnew => ?_) (fun hc => ?_) fun c hc => ?_
  · exact issues.pse.resolve_right fun ⟨_, _, hno⟩ => hno
  · have hs := configuring new hnew
    obtain ⟨-, hscan, -⟩ := h.configuring new hs
    exact ⟨hs, (held (by rw [hs]; exact nofun)).2.trans hscan, same.order, same.unconfirmed⟩
  · obtain ⟨hpass, htimer⟩ := h.idle hc
    exact ⟨same.pass.trans hpass, (timer hc).trans htimer⟩
  · exact (h.stands c hc).2.2.keep (.of_window window wbase) same

/-- What no part of the guard speaks of changes. -/
theorem State.Guarded.of_frame (h : s.Guarded) (config : t.eng.config = s.eng.config) (wbase : t.eng.wbase = s.eng.wbase)
    (pse : t.pse = s.pse) (held : t.rqh.held = s.rqh.held) (scan : t.rqh.scan = s.rqh.scan) (bip : t.bip = s.bip)
    (window : t.window = s.window) : t.Guarded :=
  h.requests (.of_bip bip) config wbase window (.of_eq pse) (fun _ => by rw [pse]) (fun _ => ⟨held, scan⟩)
    fun _ hnew => (Rqh.configuring_congr held).symm.trans hnew

/-- Work at an answer, while no CONFIGURE is under way, that leaves the pass where it is. -/
theorem State.Guarded.requests_answered (h : s.Guarded) (hin : s.bip.inFlight = none) (plain : s.rqh.configuring = none)
    (issues : s.Issues t) (config : t.eng.config = s.eng.config) (wbase : t.eng.wbase = s.eng.wbase) (window : t.window = s.window)
    (same : s.pse.SameStage t.pse) (timer : t.pse.timer = s.pse.timer)
    (configuring : ∀ new, t.rqh.configuring = some new → s.rqh.configuring = some new) : t.Guarded := by
  refine h.goes issues config wbase (fun a ha => (h.pse a ha).keep config same fun hc => absurd plain hc)
    (.inr (State.awaited_of_inFlight_none hin)) (fun new hnew => ?_) (fun hc => ?_) fun c hc => ?_
  · exact nomatch plain.symm.trans (configuring new hnew)
  · obtain ⟨hpass, htimer⟩ := h.idle hc
    exact ⟨same.pass.trans hpass, timer.trans htimer⟩
  · exact (h.stands c hc).2.2.keep (.of_window window wbase) same

/-- Work of the pass at the answer to its access. -/
theorem State.Guarded.passWork (h : s.Guarded) (hin : s.bip.inFlight = none) (hwait : s.bip.waitPse = none)
    (hc : s.eng.config = some c) (issues : s.Issues t) (config : t.eng.config = s.eng.config)
    (wbase : t.eng.wbase = s.eng.wbase) (configuring : ∀ new, t.rqh.configuring = some new → s.rqh.configuring = some new)
    (stands : t.publicationStands c) : t.Guarded := by
  refine h.goes issues config wbase (fun a ha => ?_) (.inr (State.awaited_of_inFlight_none hin)) (fun new hnew => ?_) (fun hn => ?_)
    fun c' hc' => ?_
  · exact nomatch hwait.symm.trans (State.outstanding_of_inFlight_none hin ha)
  · exact nomatch hc.symm.trans (h.configuring new (configuring new hnew)).1
  · exact nomatch hc.symm.trans hn
  · obtain rfl := Option.some.inj (hc.symm.trans hc')
    exact stands

end

end Sys2Proof.Machine

/-! The guard of the publication law through the end of an access: its word in the window, its failure, and the grant that follows. -/
namespace Sys2Proof.Machine

section
variable {s t u : State} {c : Configuration}

/-- With no pass past its start the words are all that has to stand. -/
theorem State.wordsStand.between (h : s.wordsStand c) (pass : s.pse.pass = none ∨ s.pse.pass = some .startStamp) :
    s.publicationStands c := by
  refine State.publicationStands_iff.2 ⟨h, fun stage hstage => ?_⟩
  rcases pass with hp | hp <;> rw [hp] at hstage <;> cases hstage
  trivial

theorem State.Guarded.words (h : s.Guarded) (hc : s.eng.config = some c) : s.wordsStand c :=
  (State.publicationStands_iff.1 (h.stands c hc).2.2).1

theorem State.Guarded.stage (h : s.Guarded) (hc : s.eng.config = some c) {stage : PassStage} (hp : s.pse.pass = some stage) :
    s.stageStands c stage :=
  (State.publicationStands_iff.1 (h.stands c hc).2.2).2 stage hp

/-! ### Failures and grants -/

theorem Rqh.configuring_none_of_stage {r : Rqh} {x : Held} (held : r.held = some x)
    (stage : ∀ c had old, x.stage ≠ .configureWrite c had old) : r.configuring = none :=
  Rqh.configuring_eq_none fun y c had old hy => by
    rw [held] at hy
    cases hy
    exact stage c had old

/-- Work of RQH and EVR while no CONFIGURE is under way. -/
theorem State.Guarded.requests_plain (h : s.Guarded) (plain : s.rqh.configuring = none) (issues : s.RequestIssues t)
    (config : t.eng.config = s.eng.config) (wbase : t.eng.wbase = s.eng.wbase) (window : t.window = s.window)
    (pse : t.pse = s.pse)
    (configuring : ∀ new, t.rqh.configuring = some new → s.rqh.configuring = some new) : t.Guarded :=
  h.requests issues config wbase window (.of_eq pse) (fun _ => by rw [pse]) (fun hne => absurd plain hne) configuring

theorem State.refuseLoad_issues (s : State) (x : Held) (r : RefusedWith) : s.RqhIssues (s.refuseLoad x r) :=
  State.finishStep_issues (s := { s with clb := s.clb.discard }) x _ _ 0

theorem State.abandonHeld_issues (s : State) : s.RqhIssues s.abandonHeld := by
  unfold State.abandonHeld
  dsimp only
  split
  · exact .of_eq rfl
  · split
    · exact .of_eq rfl
    · exact State.abandonStep_issues (s := { s with rqh := { s.rqh with
        held := none, scan := none, scanRequested := false, effectTaken := false } }) _ _

theorem State.abandonHeld_configuring (s : State) : s.abandonHeld.rqh.configuring = none :=
  (Rqh.carries_none s.abandonHeld_plain).2

theorem Pse.abandon_publication (p : Pse) :
    p.abandon.bankOrder = p.bankOrder ∧ p.abandon.unconfirmed = p.unconfirmed ∧ p.abandon.pass = none ∧ p.abandon.timer = none :=
  ⟨rfl, rfl, rfl, rfl⟩

/-- Fault entry withdraws what waits, and abandons the pass; the words stand. -/
theorem State.Guarded.enterFault (h : s.Guarded) (hin : s.bip.inFlight = none) (kind : FaultKind) (x : Client) (o : Nat) :
    (s.enterFault kind x o).Guarded := by
  have withdrawn : ({ s with bip := s.bip.withdrawAll } : State).Guarded :=
    h.of_waiting hin rfl (fun y => .inl (by cases y <;> rfl)) (.inl rfl)
  obtain ⟨hpse, -, -, -, -, hconfig, hwbase, -⟩ := s.enterFault_blocks kind x o
  refine withdrawn.goes ?_ hconfig hwbase (fun a ha => ?_) (.inr (State.awaited_of_inFlight_none hin)) (fun new hnew => ?_)
    (fun _ => ?_) fun c hc => State.wordsStand.between ?_ (.inl ?_)
  · exact State.RqhIssues.issues (State.abandonHeld_issues { s with
      eng := { s.eng with engine := .faulted, faultEntry := true, faultRecord := some ⟨kind, x, o⟩ }
      pse := s.pse.abandon, evr := s.evr.endAtFault, clb := s.clb.discard, bip := s.bip.withdrawAll })
  · cases State.outstanding_of_inFlight_none (s := { s with bip := s.bip.withdrawAll }) hin ha
  · rw [show (s.enterFault kind x o).rqh.configuring = none from State.abandonHeld_configuring _] at hnew
    cases hnew
  · rw [hpse]
    exact ⟨rfl, rfl⟩
  · exact (h.words hc).keep (.of_window (by simp) hwbase) (by rw [hpse]; rfl) (by rw [hpse]; rfl)
  · rw [hpse]
    rfl

theorem State.Guarded.accessFailed (h : s.Guarded) (hin : s.bip.inFlight = none) (kind : FaultKind) (a : Access) :
    (s.accessFailed kind a).Guarded := by
  have fault (x : Client) (o : Nat) := h.enterFault hin kind x o
  unfold State.accessFailed
  split
  · exact h.of_frame rfl rfl rfl rfl rfl rfl rfl
  · exact fault _ _
  · exact fault _ _
  · split
    · exact fault _ _
    next x hx =>
      split
      next hstage =>
        exact h.requests_plain (Rqh.configuring_none_of_stage hx (by rw [hstage]; exact nofun)) (s.refuseLoad_issues _ _).request
          (by simp) (by simp) (by simp) (by simp) nofun
      next hstage =>
        exact h.requests_plain (Rqh.configuring_none_of_stage hx (by rw [hstage]; exact nofun)) (.of_bip (by simp)) rfl rfl
          (by simp) (by simp) nofun
      all_goals exact fault _ _

theorem State.accessFailed_inFlight (hin : s.bip.inFlight = none) (kind : FaultKind) (a : Access) :
    (s.accessFailed kind a).bip.inFlight = none := by
  have fault (x : Client) (o : Nat) : (s.enterFault kind x o).bip.inFlight = none :=
    Eq.trans (State.abandonHeld_issues _).inFlight hin
  unfold State.accessFailed
  split
  · exact hin
  · exact fault _ _
  · exact fault _ _
  · split
    · exact fault _ _
    · split
      · exact (s.refuseLoad_issues _ _).inFlight.trans hin
      · exact hin
      all_goals exact fault _ _

theorem State.Guarded.grantNext (n : Nat) : ∀ {s : State}, s.Guarded → (State.grantNext n s).Guarded := by
  induction n with
  | zero => exact id
  | succ n ih =>
    intro s h
    exact State.grantNext_succ n (fun _ => h) (fun _ => h) (fun a _ ha => h.grant ha)
      fun a hin _ => ih ((h.unwait hin a).accessFailed ((s.bip.unwait_inFlight a).trans hin) .busError a)

theorem State.Guarded.settle (h : s.Guarded) : s.settle.Guarded := h.grantNext 5

theorem State.Guarded.settleTogether (h : s.Guarded) : s.settleTogether.Guarded := by
  unfold State.settleTogether
  split
  · refine State.Guarded.settle ?_
    generalize (if Config.evrTakenFirst s.freeIndex then Client.pse else Client.evr) = x
    have turned : ({ s with bip := { s.bip with lastGranted := x } } : State).Guarded :=
      h.of_bip h.base h.one (fun y a ha => by cases y <;> exact ha) id (fun y a ha => h.owned y a (by cases y <;> exact ha)) h.waitEng
    exact turned.of_frame rfl rfl rfl rfl rfl rfl rfl
  · exact h.settle

/-! ### What an access that ends leaves in the window -/

/-- An access has ended: the guard stands when what the access left in the window does. -/
theorem State.Guarded.ended (h : s.Guarded) (eng : t.eng = s.eng) (pse : t.pse = s.pse) (rqh : t.rqh = s.rqh)
    (bip : t.bip = s.bip.ended) (stands : ∀ c, s.eng.config = some c → t.publicationStands c) : t.Guarded := by
  have hin : ({ s with bip := s.bip.ended } : State).bip.inFlight = none := rfl
  have waits {x : Client} {a : Access} (ha : ({ s with bip := s.bip.ended } : State).outstanding x a) : s.outstanding x a := by
    have := State.outstanding_of_inFlight_none hin ha
    exact .inl (by cases x <;> exact this)
  have ended : ({ s with bip := s.bip.ended } : State).Guarded :=
    h.of_bip (fun hne => absurd rfl hne) (.inr (State.awaited_of_inFlight_none hin)) (fun _ _ => waits) (fun _ => rfl)
      (fun x a ha => h.owned x a (by cases x <;> exact ha)) h.waitEng
  have configuring : t.rqh.configuring = s.rqh.configuring := Rqh.configuring_congr (by rw [rqh])
  refine ended.goes (.of_eq bip) (by rw [eng]) (by rw [eng]) (fun a ha => ?_) (.inl (by rw [bip])) (fun new hnew => ?_)
    (fun hc => ?_) stands
  · exact (h.pse a (waits ha)).keep (by rw [eng]) (.of_eq pse) fun _ => by rw [rqh]
  · have hs := configuring ▸ hnew
    obtain ⟨-, hscan, -⟩ := h.configuring new hs
    exact ⟨hs, by rw [rqh]; exact hscan, by rw [pse], by rw [pse]⟩
  · rw [pse]
    exact h.idle hc

/-- A word written outside the publication word and outside the banks that are named or unconfirmed. -/
theorem State.wordsStand.building (h : s.wordsStand c) (builds : s.pse.builds) (h28 : s.keepsWord t 28)
    (others : ∀ b n, b ≠ s.pse.workBank → s.complete c b n → t.complete c b n) (pse : t.pse = s.pse) : t.wordsStand c := by
  obtain ⟨⟨w, hw, hword⟩, -⟩ := h
  obtain ⟨hunconfirmed, hpublished⟩ := builds
  refine ⟨⟨w, h28 w hw, ?_⟩, fun b n hb => ?_⟩
  · rw [pse]
    rcases hword with ⟨hnamed, hheader⟩ | ⟨b, n, hb, -⟩
    · refine .inl ⟨hnamed, fun b hb => ?_⟩
      obtain ⟨n, hn, hpass⟩ := hheader b hb
      exact ⟨n, others b n (by rintro rfl; exact hpublished hb) hn, hpass⟩
    · rw [hunconfirmed] at hb
      cases hb
  · rw [pse, hunconfirmed] at hb
    cases hb

/-- A word of the work bank lands: the words stand, for no word of the window names that bank. -/
theorem State.wordsStand.workBank (h : s.wordsStand c) (builds : s.pse.builds) (base : s.bip.base = s.eng.wbase) (apart : c.apart)
    {j : Nat} (hj : j < 516) (w : Word) : (s.placeWord (c.bankWord s.pse.workBank j) w).wordsStand c := by
  have inside := c.bankWord_inside s.pse.workBank hj
  have hbank := apart.1
  have keep (b : Fin 3) (hb : b ≠ s.pse.workBank) (i : Nat) (hi : i < 516) :
      s.keepsWord (s.placeWord (c.bankWord s.pse.workBank j) w) (c.bankWord b i) :=
    .of_eq (State.windowWord_placeWord_other base _ _ _ (c.bankWord_apart hb hi hj))
  exact h.building builds (.of_eq (State.windowWord_placeWord_other base _ _ _ (by omega)))
    (fun b n hb hn => ⟨hn.1.imp (keep b hb 0 (by decide) _) (keep b hb 0 (by decide) _), keep b hb 1 (by decide) _ hn.2⟩) rfl

/-- The publication word lands: it names the unconfirmed bank. -/
theorem State.wordsStand.publication (h : s.wordsStand c) (base : s.bip.base = s.eng.wbase) (apart : c.apart)
    (hu : s.pse.unconfirmed = some (s.pse.workBank, s.pse.passNumber)) :
    (s.placeWord 28 (publicationWord s.pse.workBank.val s.pse.passNumber)).wordsStand c := by
  have keep (b : Fin 3) (j : Nat) (hj : j < 516) :
      s.keepsWord (s.placeWord 28 (publicationWord s.pse.workBank.val s.pse.passNumber)) (c.bankWord b j) := by
    have inside := c.bankWord_inside b hj
    have hbank := apart.1
    exact .of_eq (State.windowWord_placeWord_other base _ _ _ (by omega))
  refine ⟨⟨_, State.windowWord_placeWord_same base _ _, .inr ⟨_, _, hu, rfl⟩⟩, fun b n hb => ?_⟩
  obtain ⟨hstate, hnumber⟩ := h.2 b n hb
  exact ⟨hstate.imp (keep b 0 (by decide) _) (keep b 0 (by decide) _), keep b 1 (by decide) _ hnumber⟩

/-- A word of PSE's stage lands. -/
theorem State.Guarded.landed_pse (h : s.Guarded) (base : s.bip.base = s.eng.wbase) {a : Access} (access : s.passAccess a) {w : Word}
    (hw : a.op.written = some w) (hc : s.eng.config = some c) : (s.placeWord a.offset w).publicationStands c := by
  have apart := (h.stands c hc).1
  unfold State.passAccess at access
  rw [hc] at access
  dsimp only at access
  cases hp : s.pse.pass with
  | none => rw [hp] at access; exact access.elim
  | some stage =>
    rw [hp] at access
    have stands := h.stage hc hp
    have reads (hop : a.op = .read) : False := by rw [hop] at hw; cases hw
    have building (builds : s.pse.builds) {j : Nat} (hj : j < 516) (ho : a.offset = c.bankWord s.pse.workBank j)
        (stage' : (s.placeWord a.offset w).stageStands c stage) : (s.placeWord a.offset w).publicationStands c := by
      refine State.publicationStands_iff.2 ⟨?_, fun stage'' hs => ?_⟩
      · rw [ho]
        exact (h.words hc).workBank builds base apart hj w
      · obtain rfl := Option.some.inj (hp.symm.trans hs)
        exact stage'
    cases stage with
    | startStamp => exact (reads access).elim
    | holdRead => exact (reads access).elim
    | inputRead i => exact (reads access).elim
    | endStamp => exact (reads access).elim
    | unconfirmedRead => exact (reads access.2).elim
    | fillingHeader k => exact building stands (j := k.val) (by omega) access.1 stands
    | entryValue i v qz => exact building stands (j := 4 + 2 * i.val) (by omega) access.1 stands
    | entryQuality i v qz => exact building stands (j := 5 + 2 * i.val) (by omega) access.1 stands
    | completeHeader k =>
      obtain ⟨builds, hnumber⟩ := stands
      refine building builds (s.pse.completeWrite_lt k) access.1 ⟨builds, fun hk => ?_⟩
      rw [access.1]
      have other : (s.pse.completeWrite k).1 ≠ 1 := by
        revert hk
        fin_cases k <;> simp [Pse.completeWrite]
      have elsewhere : c.bankWord s.pse.workBank 1 + 4 ≤ c.bankWord s.pse.workBank (s.pse.completeWrite k).1
          ∨ c.bankWord s.pse.workBank (s.pse.completeWrite k).1 + 4 ≤ c.bankWord s.pse.workBank 1 := by
        unfold Configuration.bankWord
        omega
      exact (State.windowWord_placeWord_other base _ _ _ elsewhere).trans (hnumber hk)
    | publicationWrite =>
      obtain ⟨ho, hop⟩ := access
      rw [hop] at hw
      cases hw
      refine State.publicationStands_iff.2 ⟨?_, fun stage hs => ?_⟩
      · rw [ho]
        exact (h.words hc).publication base apart stands
      · obtain rfl := Option.some.inj (hp.symm.trans hs)
        exact stands

/-- The writes of RQH and EVR lie outside the publication word and the banks. -/
theorem State.Guarded.outside (h : s.Guarded) {x : Client} (hx : x ≠ .pse) {a : Access} (awaited : s.awaited (.client x) = some a)
    {w : Word} (hw : a.op.written = some w) (hc : s.eng.config = some c) :
    (a.offset + 4 ≤ 28 ∨ 32 ≤ a.offset) ∧ (a.offset + 4 ≤ c.bankOffset ∨ c.bankOffset + 6192 ≤ a.offset) := by
  obtain ⟨⟨hbank, hstrip, hcapacity, hareas⟩, -, -⟩ := h.stands c hc
  cases x with
  | rqh =>
    have := h.rqh a w (.inr awaited) hw
    omega
  | pse => exact absurd rfl hx
  | evr =>
    obtain ⟨c', hc', hplace⟩ := h.evr a w (.inr awaited) hw
    obtain rfl := Option.some.inj (hc.symm.trans hc')
    omega

theorem State.Guarded.base_of_awaited (h : s.Guarded) {o : Owner} {a : Access} (awaited : s.awaited o = some a) :
    s.bip.base = s.eng.wbase := by
  obtain ⟨hin, hmark, -⟩ := State.awaited_eq_some.1 awaited
  exact h.base (by rw [hin]; exact nofun) hmark

/-- A word that a client writes lands. -/
theorem State.Guarded.landed (h : s.Guarded) {x : Client} {a : Access} (awaited : s.awaited (.client x) = some a) {w : Word}
    (hw : a.op.written = some w) (hc : s.eng.config = some c) : (s.placeWord a.offset w).publicationStands c := by
  have base := h.base_of_awaited awaited
  by_cases hx : x = .pse
  · subst hx
    exact h.landed_pse base (h.pse a (.inr awaited)) hw hc
  · obtain ⟨h28, hbanks⟩ := h.outside hx awaited hw hc
    exact (h.stands c hc).2.2.keep (State.placeWord_keepsBanks base w h28 hbanks) (.refl _)

/-- The write of a client is answered. -/
theorem State.Guarded.writeDone (h : s.Guarded) {x : Client} {a : Access} (awaited : s.awaited (.client x) = some a) :
    (s.writeDone a).Guarded := by
  refine h.ended rfl rfl rfl rfl fun c hc => ?_
  cases hw : a.op.written with
  | none =>
    refine (h.stands c hc).2.2.keep (.of_window ?_ rfl) (.refl _)
    rw [(s.writeDone_frame a).2.2.2.2.2.2.2.2.1, State.completedAccess_window, hw]
  | some w =>
    refine (h.landed awaited hw hc).keep (.of_window ?_ rfl) (.refl _)
    rw [(s.writeDone_frame a).2.2.2.2.2.2.2.2.1, State.completedAccess_window, hw]
    rfl

/-- The write of a client that fails may have landed. -/
theorem State.Guarded.failDone (h : s.Guarded) {x : Client} {a : Access} (awaited : s.awaited (.client x) = some a) :
    (s.failDone a).Guarded := by
  obtain ⟨m, n, hfail, hwindow, -, -⟩ := s.failDone_eq a
  rw [hfail]
  refine h.ended rfl rfl rfl rfl fun c hc => ?_
  rcases hwindow with rfl | ⟨w, hop, rfl⟩
  · exact (h.stands c hc).2.2.keep (.of_window rfl rfl) (.refl _)
  · exact (h.landed (w := w) awaited (by rw [hop]; rfl) hc).keep (.of_window rfl rfl) (.refl _)

/-- A read that finds the banks as the part knows them is answered. -/
theorem State.Guarded.readDone (h : s.Guarded) {x : Client} {a : Access} (awaited : s.awaited (.client x) = some a) (w : Word)
    (known : s.banksReadAsKnown (s.readDone a w)) (hx : x = .pse → a.op = .read) : (s.readDone a w).Guarded := by
  refine h.ended rfl rfl rfl rfl fun c hc => (h.stands c hc).2.2.keep ?_ (.refl _)
  cases hw : a.op.written with
  | none =>
    have hop : a.op = .read := by
      cases hop : a.op with
      | read => rfl
      | write v => rw [hop] at hw; cases hw
      | writeState v => rw [hop] at hw; cases hw
    exact known.keepsBanks rfl (State.awaited_eq_some.1 awaited).1 hop hc
  | some v =>
    have hne : x ≠ .pse := fun hp => by rw [hx hp] at hw; cases hw
    obtain ⟨h28, hbanks⟩ := h.outside hne awaited hw hc
    exact (State.placeWord_keepsBanks (h.base_of_awaited awaited) w h28 hbanks).trans (.of_window rfl rfl)

/-- The word that a read finds stands where it was read, and so does the word that an answered write leaves. -/
theorem State.Guarded.windowWord_readDone (h : s.Guarded) {o : Owner} {a : Access} (awaited : s.awaited o = some a) (w : Word) :
    (s.readDone a w).windowWord a.offset = some w :=
  (State.windowWord_congr (s := s.placeWord a.offset w) rfl rfl _).trans
    (State.windowWord_placeWord_same (h.base_of_awaited awaited) _ _)

theorem State.Guarded.windowWord_writeDone (h : s.Guarded) {o : Owner} {a : Access} (awaited : s.awaited o = some a) {w : Word}
    (hw : a.op.written = some w) : (s.writeDone a).windowWord a.offset = some w := by
  refine (State.windowWord_congr (s := s.placeWord a.offset w) (t := s.writeDone a) ?_ rfl _).trans
    (State.windowWord_placeWord_same (h.base_of_awaited awaited) _ _)
  rw [(s.writeDone_frame a).2.2.2.2.2.2.2.2.1, State.completedAccess_window, hw]
  rfl

end

end Sys2Proof.Machine

/-! The guard of the publication law through the clients' work. -/
namespace Sys2Proof.Machine

section
variable {s t u : State} {c : Configuration}

/-! ### The work of a pass while it builds its bank -/

/-- The pass goes on building the same bank. -/
structure State.BuildsOn (s u : State) : Prop where
  order : u.pse.bankOrder = s.pse.bankOrder
  unconfirmed : u.pse.unconfirmed = s.pse.unconfirmed
  work : u.pse.workBank = s.pse.workBank
  stage : ∀ stage, u.pse.pass = some stage → ∀ c, u.pse.builds → u.stageStands c stage

theorem State.BuildsOn.of_frame {v : State} (h : u.BuildsOn v) (order : u.pse.bankOrder = s.pse.bankOrder)
    (unconfirmed : u.pse.unconfirmed = s.pse.unconfirmed) (work : u.pse.workBank = s.pse.workBank) : s.BuildsOn v :=
  ⟨h.order.trans order, h.unconfirmed.trans unconfirmed, h.work.trans work, h.stage⟩

theorem State.BuildsOn.stands (h : s.BuildsOn u) (words : s.wordsStand c) (builds : s.pse.builds) (banks : s.keepsBanks u c) :
    u.publicationStands c := by
  refine State.publicationStands_iff.2 ⟨words.keep banks h.order h.unconfirmed, fun stage hstage => h.stage stage hstage c ?_⟩
  unfold Pse.builds Pse.publishedBank
  rw [h.order, h.unconfirmed, h.work]
  exact builds

theorem State.fillingStep_buildsOn (k : Fin 4) : s.BuildsOn (s.fillingStep c k) :=
  ⟨rfl, rfl, rfl, fun _ hstage _ builds => by cases hstage; exact builds⟩

theorem State.writeEntry_buildsOn (i : Fin 256) (v qz : Word) : s.BuildsOn (s.writeEntry c i v qz) :=
  ⟨rfl, rfl, rfl, fun _ hstage _ builds => by cases hstage; exact builds⟩

theorem State.entryValueWritten_buildsOn (i : Fin 256) (v qz : Word) : s.BuildsOn (s.entryValueWritten c i v qz) :=
  ⟨rfl, rfl, rfl, fun _ hstage _ builds => by cases hstage; exact builds⟩

theorem State.completePoint_buildsOn (i : Fin 256) (d : PointDef) (src : SourceResult) : s.BuildsOn (s.completePoint c i d src) :=
  (State.writeEntry_buildsOn i _ _).of_frame (by simp) (by simp) (by simp)

theorem State.convertPoint_buildsOn (i : Fin 256) : s.BuildsOn (s.convertPoint c i) := by
  unfold State.convertPoint
  split
  · exact State.writeEntry_buildsOn _ _ _
  · split
    · split
      · exact ⟨rfl, rfl, rfl, fun _ hstage _ builds => by cases hstage; exact builds⟩
      · exact State.completePoint_buildsOn _ _ _
    · exact State.completePoint_buildsOn _ _ _

theorem State.inputRead_buildsOn (i : Fin 256) (w : Word) : s.BuildsOn (s.inputRead c i w) := by
  unfold State.inputRead
  split
  · split
    · exact State.completePoint_buildsOn _ _ _
    · exact State.convertPoint_buildsOn _
  · exact State.convertPoint_buildsOn _

theorem State.fillingWritten_buildsOn (k : Fin 4) : s.BuildsOn (s.fillingWritten c k) := by
  unfold State.fillingWritten
  split
  · exact State.fillingStep_buildsOn _
  · exact State.convertPoint_buildsOn _

theorem State.entryWritten_buildsOn (i : Fin 256) (v qz : Word) : s.BuildsOn (s.entryWritten c i v qz) := by
  unfold State.entryWritten
  dsimp only
  split
  · exact (State.convertPoint_buildsOn _).of_frame rfl rfl rfl
  · exact ⟨rfl, rfl, rfl, fun _ hstage _ builds => by cases hstage; exact builds⟩

theorem State.endStampRead_buildsOn (w : Word) : s.BuildsOn (s.endStampRead c w) :=
  ⟨rfl, rfl, rfl, fun _ hstage _ builds => by cases hstage; exact ⟨builds, fun hk => absurd rfl hk⟩⟩

/-! ### The stages at which the publication state changes -/

theorem State.wordsStand.endPass (h : s.wordsStand c) (last : Bool) (e : Option Event) : (s.endPass last e).publicationStands c := by
  have hpse := (s.endPass_spec last e).2
  refine (h.keep (.of_window (by simp) (s.endPass_wbase last e)) (by rw [hpse]) (by rw [hpse])).between ?_
  rw [hpse]
  dsimp only
  split
  · exact .inr rfl
  · exact .inl rfl

/-- The number of the pass is taken: the hold word is read when no bank is unconfirmed. -/
theorem State.wordsStand.numberPass (h : s.wordsStand c) (stamp : Word) : (s.numberPass stamp).publicationStands c := by
  unfold State.numberPass
  dsimp only
  split
  next hsome =>
    refine State.publicationStands_iff.2 ⟨h.keep (.of_window rfl rfl) rfl rfl, fun stage hstage => ?_⟩
    cases hstage
    trivial
  next hnone =>
    refine State.publicationStands_iff.2 ⟨h.keep (.of_window rfl rfl) rfl rfl, fun stage hstage => ?_⟩
    cases hstage
    exact Option.not_isSome_iff_eq_none.1 hnone

/-- The start stamp is read: the pass takes its number, or ends. -/
theorem State.wordsStand.startStampRead (h : s.wordsStand c) (stamp : Word) : (s.startStampRead stamp).publicationStands c := by
  unfold State.startStampRead
  split
  · exact State.wordsStand.endPass (s := { s with pse := { s.pse with skipped := s.pse.skipped + 1, skipFlag := true } })
      (h.keep (.of_window rfl rfl) rfl rfl) _ _
  · exact h.numberPass stamp

theorem Pse.publishedBank_publishBank (p : Pse) (b : Fin 3) : (p.publishBank b).publishedBank = some b := by
  simp [Pse.publishBank, Pse.publishedBank]

/-- The unconfirmed bank is resolved by the word that stands (R125). -/
theorem State.wordsStand.resolve (h : s.wordsStand c) {w : Word} (hw : s.windowWord 28 = some w) :
    ({ s with pse := s.pse.resolve w } : State).wordsStand c ∧ (s.pse.resolve w).unconfirmed = none := by
  obtain ⟨⟨w', hw', hword⟩, hcomplete⟩ := id h
  obtain rfl := Option.some.inj (hw.symm.trans hw')
  unfold Pse.resolve
  split
  next hnone => exact ⟨h, hnone⟩
  next b n hu =>
    split
    next hconfirmed =>
      refine ⟨⟨⟨w, hw, .inl ⟨?_, fun b' hb' => ?_⟩⟩, nofun⟩, rfl⟩
      · exact hconfirmed.1.trans (s.pse.publishedBank_publishBank b).symm
      · obtain rfl := Option.some.inj ((s.pse.publishedBank_publishBank b).symm.trans hb')
        exact ⟨n, hcomplete _ n hu, hconfirmed.2⟩
    next hrefused =>
      refine ⟨⟨⟨w, hw, .inl (hword.resolve_right ?_)⟩, nofun⟩, rfl⟩
      rintro ⟨b', n', hu', rfl⟩
      rw [hu] at hu'
      cases hu'
      exact hrefused ⟨namedBank_publicationWord b n, publicationPass_publicationWord b n⟩

theorem State.wordsStand.unconfirmedRead (h : s.wordsStand c) {w : Word} (hw : s.windowWord 28 = some w) :
    (s.unconfirmedRead w).publicationStands c := by
  obtain ⟨words, hnone⟩ := h.resolve hw
  refine State.publicationStands_iff.2 ⟨words.keep (.of_window rfl rfl) rfl rfl, fun stage hstage => ?_⟩
  cases hstage
  exact hnone

/-- The bank chosen is not the published one (R124). -/
theorem State.wordsStand.holdRead (h : s.wordsStand c) (hnone : s.pse.unconfirmed = none) (w : Word) :
    (s.holdRead c w).publicationStands c := by
  refine State.publicationStands_iff.2 ⟨h.keep (.of_window rfl rfl) rfl rfl, fun stage hstage => ?_⟩
  cases hstage
  exact ⟨hnone, fun heq => (Pse.mem_candidates.1 (s.pse.chooseBank_spec (namedBank w)).1).1 heq.symm⟩

/-- The state words of a COMPLETE header. -/
theorem completeState_eq (changed : Bool) : completeState changed = 2 ∨ completeState changed = 0x102 := by
  cases changed
  · exact .inl rfl
  · exact .inr rfl

/-- The COMPLETE header is written, and the publication word's write begun: the bank is unconfirmed. -/
theorem State.wordsStand.writePublication (h : s.wordsStand c) (builds : s.pse.builds)
    (hstate : s.windowWord (c.bankWord s.pse.workBank 0) = some (completeState s.pse.inputChanged))
    (hnumber : s.windowWord (c.bankWord s.pse.workBank 1) = some s.pse.passNumber) : s.writePublication.publicationStands c := by
  obtain ⟨⟨w, hw, hword⟩, -⟩ := h
  refine State.publicationStands_iff.2 ⟨⟨⟨w, hw, .inl (hword.resolve_right ?_)⟩, fun b n hb => ?_⟩, fun stage hstage => ?_⟩
  · rintro ⟨b, n, hb, -⟩
    rw [builds.1] at hb
    cases hb
  · cases hb
    exact ⟨(completeState_eq s.pse.inputChanged).imp (fun he => hstate.trans (congrArg some he)) fun he =>
      hstate.trans (congrArg some he), hnumber⟩
  · cases hstage
    rfl

/-- A word of the COMPLETE header is written. -/
theorem State.wordsStand.completeWritten (h : s.wordsStand c) (builds : s.pse.builds) {k : Fin 4}
    (hnumber : s.windowWord (c.bankWord s.pse.workBank 1) = some s.pse.passNumber)
    (hlast : k = 3 → s.windowWord (c.bankWord s.pse.workBank 0) = some (completeState s.pse.inputChanged)) :
    (s.completeWritten c k).publicationStands c := by
  unfold State.completeWritten
  split
  · refine State.publicationStands_iff.2 ⟨h.keep (.of_window rfl rfl) rfl rfl, fun stage hstage => ?_⟩
    cases hstage
    exact ⟨builds, fun _ => hnumber⟩
  next hk => exact h.writePublication builds (hlast (Fin.ext (by omega))) hnumber

/-- The publication word is written: the bank it names is the published one (R105). -/
theorem State.wordsStand.publish (h : s.wordsStand c) (hu : s.pse.unconfirmed = some (s.pse.workBank, s.pse.passNumber))
    (hw : s.windowWord 28 = some (publicationWord s.pse.workBank.val s.pse.passNumber)) : s.publish.publicationStands c := by
  refine State.wordsStand.endPass (s := ({ s with pse := s.pse.afterPublication } : State).raise .passDone)
    ⟨⟨_, hw, .inl ⟨?_, fun b hb => ?_⟩⟩, nofun⟩ _ _
  · rw [namedBank_publicationWord]
    exact (s.pse.publishedBank_publishBank _).symm
  · obtain rfl := Option.some.inj ((s.pse.publishedBank_publishBank _).symm.trans hb)
    exact ⟨s.pse.passNumber, h.2 _ _ hu, publicationPass_publicationWord _ _⟩

end

end Sys2Proof.Machine

/-! The guard of the publication law is kept by every step that reads the banks as the part knows them. -/
namespace Sys2Proof.Machine

section
variable {s t u : State} {c : Configuration}

/-! ### Requests -/

/-- CONFIGURE takes its effect in IDLE: nothing of PSE or EVR is outstanding but the write of the publication word (R128, R161). -/
theorem State.Guarded.configureEffect (h : s.Guarded) (hin : s.bip.inFlight = none) (hscan : s.rqh.scan = none)
    (idle : s.pse.pass = none ∧ s.pse.timer = none) {x : Held} (checked : s.checkConfigure x = .ok c) :
    (s.configureEffect x c).Guarded := by
  have hin' : (s.configureEffect x c).bip.inFlight = none := hin
  have waits {y : Client} {a : Access} (ha : (s.configureEffect x c).outstanding y a) :
      (s.configureEffect x c).bip.waiting y = some a :=
    State.outstanding_of_inFlight_none hin' ha
  refine ⟨fun hne => absurd hin' hne, .inr (State.awaited_of_inFlight_none hin'), fun a ha => ?_, fun a w ha hw => ?_,
    fun a w ha => (nomatch waits ha), fun new hnew => ?_, fun _ => idle, nofun, fun y a ha => ?_, h.waitEng⟩
  · cases waits ha
    exact ⟨rfl, rfl, _, _, _, _, rfl, rfl⟩
  · exact h.rqh a w (.inl (waits ha)) hw
  · rw [Rqh.configuring_of_stage (r := (s.configureEffect x c).rqh) rfl rfl] at hnew
    cases hnew
    exact ⟨rfl, hscan, State.checkConfigure_apart checked, rfl, rfl⟩
  · cases y with
    | rqh => exact h.owned .rqh a ha
    | pse => cases ha; rfl
    | evr => cases ha

theorem State.checkConfigure_idle {x : Held} (checked : s.checkConfigure x = .ok c) : s.eng.engine = .idle := by
  unfold State.checkConfigure at checked
  split at checked
  · cases checked
  next hengine => exact Decidable.not_not.1 hengine

theorem State.engineLaw.idle (he : s.engineLaw) (hengine : s.eng.engine = .idle) : s.pse.pass = none ∧ s.pse.timer = none := by
  obtain ⟨htimer, hpass, -⟩ := he
  constructor
  · by_contra hp
    rcases hpass hp with h | h <;> exact nomatch hengine.symm.trans h
  · by_contra ht
    exact nomatch hengine.symm.trans (htimer ht)

/-- Work begun on a request (R151). -/
theorem State.Guarded.beginWork (h : s.Guarded) (hin : s.bip.inFlight = none) (plain : s.rqh.configuring = none)
    (hscan : s.rqh.scan = none) (idle : s.eng.engine = .idle → s.pse.pass = none ∧ s.pse.timer = none) (x : Held) :
    (s.beginWork x).Guarded := by
  have begun := s.beginWork_begun x
  generalize s.beginWork x = v at begun
  cases begun with
  | finish code words =>
    exact h.requests_answered hin plain (State.finishStep_issues _ _ _ _).issues (by simp) (by simp) (by simp) (.of_eq (by simp))
      (by simp) nofun
  | configure c checked => exact h.configureEffect hin hscan (idle (State.checkConfigure_idle checked)) checked
  | load target offset length checked =>
    have hlength := (State.checkLoad_length checked).1
    refine h.requests_answered hin plain (.of_rqh _ _ (.inr ⟨rfl, rfl, _, _, rfl, rfl, rfl, ?_⟩)) rfl rfl rfl (.refl _) rfl nofun
    dsimp only
    omega
  | reach e =>
    exact h.requests_answered hin plain (State.reachApply_issues x e).issues (by simp) (by simp) (by simp) (.of_eq (by simp))
      (by simp) (State.reachApply_records x e).configuring
  | counters words =>
    have issues := State.finishStep_issues
      (s := { s.zeroCounters with rqh := { s.zeroCounters.rqh with effectTaken := true } }) x .ok (resultWords words) 0
    exact h.requests_answered hin plain issues.issues rfl rfl rfl ⟨rfl, rfl, rfl, rfl, rfl, fun _ => rfl⟩ rfl nofun

/-! ### The clients' work -/

/-- The publication word's write of a CONFIGURE is answered: the configuration is stored (R128, R161). -/
theorem State.Guarded.configureStored (h : s.Guarded) {a : Access} (awaited : s.awaited (.client .pse) = some a) {x : Held}
    {had : Bool} {old : Word} (held : s.rqh.held = some x) (stage : x.stage = .configureWrite c had old) :
    ((s.writeDone a).configureStored x c had old).Guarded := by
  have written := h.writeDone awaited
  obtain ⟨hconfig, hscan, hapart, horder, hunconfirmed⟩ := h.configuring c (Rqh.configuring_of_stage held stage)
  obtain ⟨hpass, -⟩ := h.idle hconfig
  have access := h.pse a (.inr awaited)
  unfold State.passAccess at access
  rw [hconfig] at access
  obtain ⟨hoffset, hop, -⟩ := access
  have hword : (s.writeDone a).windowWord 28 = some 3 := hoffset ▸ h.windowWord_writeDone awaited (by rw [hop]; rfl)
  have hwait : s.bip.waitPse = none := h.one.resolve_right (by rw [awaited]; exact nofun)
  have hin : ((s.writeDone a).configureStored x c had old).bip.inFlight = none := rfl
  have waits {y : Client} {b : Access} (hb : ((s.writeDone a).configureStored x c had old).outstanding y b) :
      ((s.writeDone a).configureStored x c had old).bip.waiting y = some b :=
    State.outstanding_of_inFlight_none hin hb
  have hpublished : s.pse.publishedBank = none := by
    unfold Pse.publishedBank
    rw [horder]
    rfl
  have words : ((s.writeDone a).configureStored x c had old).wordsStand c := by
    refine ⟨⟨3, hword, .inl ⟨hpublished.symm, fun b hb => ?_⟩⟩, fun b n hb => ?_⟩
    · exact nomatch hpublished.symm.trans hb
    · exact nomatch hunconfirmed.symm.trans hb
  refine ⟨fun hne => absurd hin hne, .inl hwait, fun b hb => ?_, fun b w hb hw => ?_, fun b w hb hw => ?_, nofun, nofun,
    fun c' hc' => ?_, fun y b hb => ?_, h.waitEng⟩
  · exact nomatch hwait.symm.trans (waits hb)
  · cases waits hb
    exact (slotAccess_ofRqh _ _ (finishingWordIndex_lt 0) (.read)).2
  · obtain ⟨c', hc', -⟩ := h.evr b w (.inl (waits hb)) hw
    exact nomatch hconfig.symm.trans hc'
  · cases hc'
    exact ⟨hapart, rfl, words.between (.inl hpass)⟩
  · cases y with
    | rqh => cases hb; rfl
    | pse => exact h.owned .pse b hb
    | evr => exact h.owned .evr b hb

/-- A configuration is stored while no CONFIGURE is under way, and a scan runs only then. -/
theorem State.Guarded.configuring_none (h : s.Guarded) (hs : s.eng.config ≠ none ∨ s.rqh.scan ≠ none) :
    s.rqh.configuring = none := by
  by_contra hne
  obtain ⟨new, hnew⟩ := Option.ne_none_iff_exists'.1 hne
  obtain ⟨hconfig, hscan, -⟩ := h.configuring new hnew
  exact hs.elim (absurd hconfig) (absurd hscan)

/-- The answer to an access of RQH. -/
theorem State.ClientWork.guarded_rqh {a : Access} (work : s.ClientWork a (.client .rqh) u) (he : s.engineLaw) (h : s.Guarded)
    (awaited : s.awaited (.client .rqh) = some a) (known : s.banksReadAsKnown u) : u.Guarded := by
  have hin : s.bip.ended.inFlight = none := rfl
  have wbase := work.wbase
  have read (w : Word) (window : u.window = (s.readDone a w).window) : (s.readDone a w).Guarded :=
    h.readDone awaited w (known.of_window window) nofun
  have write : (s.writeDone a).Guarded := h.writeDone awaited
  have scanning {stage : ScanStage} (hs : s.rqh.scan = some stage) : s.rqh.configuring = none :=
    h.configuring_none (.inr (by rw [hs]; exact nofun))
  have holding {x : Held} {stage : HeldStage} (held : s.rqh.held = some x) (hs : x.stage = stage)
      (plain : ∀ c had old, stage ≠ .configureWrite c had old) : s.rqh.configuring = none :=
    Rqh.configuring_none_of_stage held (hs ▸ plain)
  cases work with
  | slotRead w k heads scan =>
    have tables := State.slotRead_sameTables (s.readDone a w) k heads w (by simp [scan])
    exact (read w (by simp)).requests_answered hin (scanning scan) (State.slotRead_issues _ _ _).issues tables.config wbase (by simp)
      (.of_eq (by simp)) (by simp) fun _ hnew => tables.configuring ▸ hnew
  | stale heads slot k scan =>
    have tables := State.staleWritten_sameTables (s.writeDone a) heads slot k (by simp [scan])
    exact write.requests_answered hin (scanning scan) (State.staleWritten_issues _ _ _).issues tables.config wbase (by simp)
      (.of_eq (by simp)) (by simp) fun _ hnew => tables.configuring ▸ hnew
  | parameter w slot head k params scan =>
    have tables := State.parameterRead_sameTables (s.readDone a w) slot head k params w (by simp [scan])
    exact (read w (by simp)).requests_answered hin (scanning scan) (State.parameterRead_issues _ _ _ _ _).issues tables.config wbase
      (by simp) (.of_eq (by simp)) (by simp) fun _ hnew => tables.configuring ▸ hnew
  | taken slot head params scan =>
    exact write.requests_answered hin (scanning scan) (State.requestTaken_issues _ _ _).issues (by simp) wbase (by simp)
      (.of_eq (by simp)) (by simp) nofun
  | ticket x scan held =>
    have ended : ({ s.writeDone a with rqh := { s.rqh with scan := none } } : State).Guarded :=
      write.requests_answered hin (scanning scan) (.of_eq rfl) rfl rfl rfl (.refl _) rfl fun _ => id
    exact ended.beginWork hin (scanning scan) rfl he.idle x
  | image w x b held stage building =>
    have records := State.imageWordRead_records (s := s.readDone a w) x b w
    exact (read w (by simp)).requests_answered hin (holding held stage nofun)
      (State.imageWordRead_issues (s := s.readDone a w) held stage w) records.config wbase (by simp) (.of_eq (by simp)) (by simp)
      records.configuring
  | finishing x code results k held stage =>
    refine write.requests_answered hin (holding held stage nofun) (State.finishingWritten_issues _ _ _ _).issues ?_ wbase (by simp)
      (.of_eq (by simp)) (by simp) ?_
    · unfold State.finishingWritten
      split <;> simp
    · unfold State.finishingWritten
      split
      · exact nofun
      · rw [Rqh.configuring_congr (State.scanOccasion_held _)]
        exact nofun
  | abandon x word0 held stage =>
    refine write.requests_answered hin (holding held stage nofun) (State.abandonWritten_issues _ _).issues ?_ wbase (by simp)
      (.of_eq (by simp)) (by simp) ?_
    · unfold State.abandonWritten
      split <;> rfl
    · unfold State.abandonWritten
      split <;> exact nofun

/-- The answer to an access of EVR. -/
theorem State.ClientWork.guarded_evr {a : Access} (work : s.ClientWork a (.client .evr) u) (h : s.Guarded)
    (awaited : s.awaited (.client .evr) = some a) (known : s.banksReadAsKnown u) : u.Guarded := by
  have hin : s.bip.ended.inFlight = none := rfl
  have wbase := work.wbase
  have write : (s.writeDone a).Guarded := h.writeDone awaited
  have plain {c : Configuration} (hc : s.eng.config = some c) : s.rqh.configuring = none :=
    h.configuring_none (.inl (by rw [hc]; exact nofun))
  have same {r : Rqh} (hr : r = s.rqh) (new : Configuration) (hnew : r.configuring = some new) : s.rqh.configuring = some new :=
    hr ▸ hnew
  cases work with
  | ackWord w c lostFirst e stage config =>
    have read : (s.readDone a w).Guarded := h.readDone awaited w (known.of_window (by simp)) nofun
    have issues := State.ackWordRead_issues (s := s.readDone a w) config lostFirst e w
    exact read.requests_answered hin (plain config) issues.issues (by simp) wbase (by simp) (.of_eq (by simp)) (by simp)
      (same (by simp))
  | recordWord c seq e k behind stage config before =>
    have issues := State.recordStep_issues (s := s.writeDone a) c config seq e ⟨k.val + 1, by omega⟩ behind
    exact write.requests_answered hin (plain config) issues.issues rfl rfl rfl (.refl _) rfl fun _ => id
  | recordNumber c seq e behind stage config =>
    exact write.requests_answered hin (plain config)
      (State.recordStep_issues (s := { s.writeDone a with evr := s.evr.recordWritten seq e }) c config seq e 4 behind).issues
      rfl rfl rfl (.refl _) rfl fun _ => id
  | highWater c seq e behind stage config =>
    have issues := State.recordFinished_issues (s := s.writeDone a) config behind
    exact write.requests_answered hin (plain config) issues.issues (by simp) wbase (by simp) (.of_eq (by simp)) (by simp)
      (same (by simp))

theorem State.startStampRead_records (w : Word) : s.Records (s.startStampRead w) := by
  unfold State.startStampRead
  split
  · exact State.Records.trans (t := { s with pse := { s.pse with skipped := s.pse.skipped + 1, skipFlag := true } })
      (.of_evr rfl rfl (.inr rfl)) (State.endPass_records _ _ _)
  · exact .of_evr (by simp) (by simp) (.inr (by simp))

/-- The pass goes on building its bank. -/
theorem State.Guarded.buildWork (h : s.Guarded) (hin : s.bip.inFlight = none) (hwait : s.bip.waitPse = none)
    (hc : s.eng.config = some c) (builds : s.pse.builds) (issues : s.Issues t) (eng : t.eng = s.eng) (rqh : t.rqh = s.rqh)
    (window : t.window = s.window) (on : s.BuildsOn t) : t.Guarded :=
  h.passWork hin hwait hc issues (by rw [eng]) (by rw [eng]) (fun _ hnew => rqh ▸ hnew)
    (on.stands (h.words hc) builds (.of_window window (by rw [eng])))

/-- The answer to an access of PSE. -/
theorem State.ClientWork.guarded_pse {a : Access} (work : s.ClientWork a (.client .pse) u) (h : s.Guarded)
    (awaited : s.awaited (.client .pse) = some a) (known : s.banksReadAsKnown u) : u.Guarded := by
  have hin : s.bip.ended.inFlight = none := rfl
  have wbase := work.wbase
  have hwait : s.bip.ended.waitPse = none := h.one.resolve_right (by rw [awaited]; exact nofun)
  have access := h.pse a (.inr awaited)
  unfold State.passAccess at access
  have read (w : Word) (window : u.window = (s.readDone a w).window) (hop : a.op = .read) : (s.readDone a w).Guarded :=
    h.readDone awaited w (known.of_window window) fun _ => hop
  have write : (s.writeDone a).Guarded := h.writeDone awaited
  have bound {stage : PassStage} (hs : s.pse.pass = some stage) : ∃ c, s.eng.config = some c := by
    refine Option.ne_none_iff_exists'.1 fun hc => ?_
    exact nomatch hs.symm.trans (h.idle hc).1
  cases work with
  | startStamp w stage =>
    obtain ⟨c, hc⟩ := bound stage
    rw [hc, stage] at access
    have hd := read w (by simp) access
    have records := State.startStampRead_records (s := s.readDone a w) w
    exact hd.passWork hin hwait hc (State.startStampRead_issues w) records.config wbase records.configuring
      ((hd.words hc).startStampRead w)
  | unconfirmed w stage =>
    obtain ⟨c, hc⟩ := bound stage
    rw [hc, stage] at access
    obtain ⟨hoffset, hop⟩ := access
    have hd := read w (by simp) hop
    have hword : (s.readDone a w).windowWord 28 = some w := hoffset ▸ h.windowWord_readDone awaited w
    exact hd.passWork hin hwait hc (State.unconfirmedRead_issues w) rfl rfl (fun _ => id) ((hd.words hc).unconfirmedRead hword)
  | hold w c stage config =>
    rw [config, stage] at access
    have hd := read w (by simp) access
    exact hd.passWork hin hwait config (State.holdRead_issues (s := s.readDone a w) config w) rfl rfl (fun _ => id)
      ((hd.words config).holdRead (hd.stage config stage) w)
  | filling c k stage config =>
    exact write.buildWork hin hwait config (write.stage config stage)
      (State.fillingWritten_issues (s := s.writeDone a) config k) (by simp) (by simp) (by simp) (State.fillingWritten_buildsOn k)
  | input w c i stage config =>
    rw [config, stage] at access
    have hd := read w (by simp) access
    exact hd.buildWork hin hwait config (hd.stage config stage)
      (State.inputRead_issues (s := s.readDone a w) config i w) (by simp) (by simp) (by simp) (State.inputRead_buildsOn i w)
  | entryValue c i v qz stage config =>
    exact write.buildWork hin hwait config (write.stage config stage)
      (State.entryValueWritten_issues (s := s.writeDone a) config i v qz) rfl rfl rfl (State.entryValueWritten_buildsOn i v qz)
  | entryQuality c i v qz stage config =>
    exact write.buildWork hin hwait config (write.stage config stage)
      (State.entryWritten_issues (s := s.writeDone a) config i v qz) (by simp) (by simp) (by simp) (State.entryWritten_buildsOn i v qz)
  | endStamp w c stage config =>
    rw [config, stage] at access
    have hd := read w (by simp) access
    exact hd.buildWork hin hwait config (hd.stage config stage) (State.endStampRead_issues (s := s.readDone a w) config w) rfl rfl
      rfl (State.endStampRead_buildsOn w)
  | complete c k stage config =>
    rw [config, stage] at access
    obtain ⟨hoffset, hop⟩ := access
    obtain ⟨builds, hnumber⟩ := write.stage config stage
    have landed {w : Word} (hw : (s.pse.completeWrite k).2.written = some w) :
        (s.writeDone a).windowWord (c.bankWord s.pse.workBank (s.pse.completeWrite k).1) = some w :=
      hoffset ▸ h.windowWord_writeDone awaited (hop ▸ hw)
    have number : (s.writeDone a).windowWord (c.bankWord s.pse.workBank 1) = some s.pse.passNumber := by
      by_cases hk : k = 0
      · subst hk
        exact landed rfl
      · exact hnumber hk
    have last (hk : k = 3) : (s.writeDone a).windowWord (c.bankWord s.pse.workBank 0) = some (completeState s.pse.inputChanged) := by
      subst hk
      exact landed rfl
    exact write.passWork hin hwait config (State.completeWritten_issues (s := s.writeDone a) config k) (by simp) wbase
      (fun _ hnew => by rwa [show ((s.writeDone a).completeWritten c k).rqh = s.rqh by simp] at hnew)
      ((write.words config).completeWritten builds number last)
  | publication stage =>
    obtain ⟨c, hc⟩ := bound stage
    rw [hc, stage] at access
    obtain ⟨hoffset, hop⟩ := access
    have hword : (s.writeDone a).windowWord 28 = some (publicationWord s.pse.workBank.val s.pse.passNumber) :=
      hoffset ▸ h.windowWord_writeDone awaited (by rw [hop]; rfl)
    have records : (s.writeDone a).Records (s.writeDone a).publish :=
      State.Records.trans (t := ({ s.writeDone a with pse := s.pse.afterPublication } : State).raise .passDone)
        (.of_evr rfl rfl (.inr rfl)) (State.endPass_records _ _ _)
    exact write.passWork hin hwait hc (State.publish_issues _) records.config wbase records.configuring
      ((write.words hc).publish (write.stage hc stage) hword)
  | configureStored x c had old held stage => exact h.configureStored awaited held stage

theorem State.ClientWork.guarded {a : Access} {x : Client} (work : s.ClientWork a (.client x) u) (he : s.engineLaw) (h : s.Guarded)
    (awaited : s.awaited (.client x) = some a) (known : s.banksReadAsKnown u) : u.Guarded := by
  cases x with
  | rqh => exact work.guarded_rqh he h awaited known
  | pse => exact work.guarded_pse h awaited known
  | evr => exact work.guarded_evr h awaited known

/-! ### Every command -/

/-- Without a configuration, with no pass and no client's access waiting, and no access in flight that is not disregarded. -/
theorem State.Guarded.of_cleared (config : t.eng.config = none) (held : t.rqh.held = none)
    (idle : t.pse.pass = none ∧ t.pse.timer = none) (waiting : ∀ x, t.bip.waiting x = none) (waitEng : t.bip.waitEng = none)
    (disregard : ∀ a, t.bip.inFlight = some a → t.bip.disregard = true) : t.Guarded := by
  have awaited (o : Owner) : t.awaited o = none := by
    by_contra hne
    obtain ⟨a, ha⟩ := Option.ne_none_iff_exists'.1 hne
    obtain ⟨hin, hmark, -⟩ := State.awaited_eq_some.1 ha
    exact nomatch hmark.symm.trans (disregard a hin)
  have quiet {x : Client} {a : Access} (ha : t.outstanding x a) : False :=
    ha.elim (fun hw => nomatch (waiting x).symm.trans hw) fun hw => nomatch (awaited _).symm.trans hw
  refine ⟨fun hne hd => ?_, .inr (awaited _), fun a ha => (quiet ha).elim, fun a w ha => (quiet ha).elim,
    fun a w ha => (quiet ha).elim, fun new hnew => ?_, fun _ => idle, fun c hc => ?_, fun x a ha => ?_, fun a ha => ?_⟩
  · obtain ⟨a, ha⟩ := Option.ne_none_iff_exists'.1 hne
    exact nomatch hd.symm.trans (disregard a ha)
  · obtain ⟨x, had, old, hx, -⟩ := Rqh.exists_of_configuring hnew
    exact nomatch held.symm.trans hx
  · exact nomatch config.symm.trans hc
  · exact nomatch (waiting x).symm.trans ha
  · exact nomatch waitEng.symm.trans ha

theorem State.Guarded.issueAttachRead (h : s.Guarded) (offset : Nat) : (s.issueAttachRead offset).Guarded :=
  h.of_bip (b := (s.issueAttachRead offset).bip) h.base h.one (fun x a ha => by cases x <;> exact ha) id
    (fun x a ha => h.owned x a (by cases x <;> exact ha)) fun a ha => by cases ha; rfl

theorem State.Guarded.attachWordRead (h : s.Guarded) (w : Word) : (s.attachWordRead w).Guarded := by
  unfold State.attachWordRead
  dsimp only
  split
  · refine State.Guarded.issueAttachRead (s := { s with eng := { s.eng with attachWords := s.eng.attachWords ++ [w] } }) ?_ _
    exact h.of_frame rfl rfl rfl rfl rfl rfl rfl
  · split
    · exact h.of_frame rfl rfl rfl rfl rfl rfl rfl
    · exact h.of_frame rfl rfl rfl rfl rfl rfl rfl

/-- A pass is begun, or its trigger kept, while a configuration is stored. -/
theorem State.Guarded.trigger (h : s.Guarded) (hc : s.eng.config = some c) : s.trigger.Guarded := by
  have kept {p : Pse} (same : s.pse.SameStage p) (timer : p.timer = s.pse.timer) : ({ s with pse := p } : State).Guarded :=
    h.requests (.of_bip rfl) rfl rfl rfl same (fun _ => timer) (fun _ => ⟨rfl, rfl⟩) fun _ => id
  have issues := s.trigger_issues
  unfold State.trigger at issues ⊢
  split at issues
  next hnone =>
    rw [if_pos hnone]
    have hpass : s.pse.pass = none := Option.isNone_iff_eq_none.1 hnone
    have quiet (a : Access) (ha : s.outstanding .pse a) : False := by
      have := h.pse a ha
      unfold State.passAccess at this
      rw [hc, hpass] at this
      exact this
    refine h.goes issues rfl rfl (fun a ha => (quiet a ha).elim) (.inr ?_) (fun new hnew => ?_) (fun hn => ?_) fun c' hc' => ?_
    · by_contra hne
      obtain ⟨a, ha⟩ := Option.ne_none_iff_exists'.1 hne
      exact quiet a (.inr ha)
    · exact nomatch hc.symm.trans (h.configuring new hnew).1
    · exact nomatch hc.symm.trans hn
    · exact ((h.words hc').keep (t := s.beginPass) (.of_window rfl rfl) rfl rfl).between (.inr rfl)
  next hsome =>
    rw [if_neg hsome]
    split
    · exact kept ⟨rfl, rfl, rfl, rfl, rfl, fun _ => rfl⟩ rfl
    · exact kept ⟨rfl, rfl, rfl, rfl, rfl, fun _ => rfl⟩ rfl

end

end Sys2Proof.Machine

/-! The work bank and the publication law (R124, R126): the settling theorem. -/
namespace Sys2Proof.Machine

section
variable {s t u : State} {c : Configuration}

/-- In DETACHED nothing waits, and what is in flight is disregarded. -/
theorem State.engineLaw.cleared (he : s.engineLaw) (engine : s.eng.engine = .detached) :
    s.eng.config = none ∧ s.rqh.held = none ∧ (s.pse.pass = none ∧ s.pse.timer = none) ∧ (∀ x, s.bip.waiting x = none)
    ∧ s.bip.waitEng = none ∧ ∀ a, s.bip.inFlight = some a → s.bip.disregard = true := by
  obtain ⟨-, -, -, -, -, -, hunbound, hwaitEng, -, hread⟩ := he
  obtain ⟨⟨hpass, htimer, -, -, -, hp, hev⟩, hheld, hconfig, hr, hclient⟩ := hunbound (.inl engine)
  refine ⟨hconfig, hheld, ⟨hpass, htimer⟩, fun x => ?_, ?_, fun a ha => ?_⟩
  · cases x
    exacts [hr, hp, hev]
  · by_contra hne
    obtain ⟨a, ha⟩ := Option.ne_none_iff_exists'.1 hne
    exact nomatch engine.symm.trans (hwaitEng a ha).2
  · cases ho : a.owner with
    | client x => exact hclient a x ha ho
    | eng =>
      by_contra hd
      exact nomatch engine.symm.trans (hread a ha ho (Bool.eq_false_of_not_eq_true hd)).1

/-- An answer of ENG's comes only without a configuration. -/
theorem State.engineLaw.config_of_awaited_eng (he : s.engineLaw) {a : Access} (awaited : s.awaited .eng = some a) :
    s.eng.config = none := by
  obtain ⟨hin, hmark, ho⟩ := State.awaited_eq_some.1 awaited
  obtain ⟨-, -, -, -, -, -, hunbound, -, -, hread⟩ := he
  obtain ⟨-, -, hconfig, -⟩ := hunbound (.inr (hread a hin ho hmark).1)
  exact hconfig

theorem State.ClientWork.guarded_eng {a : Access} (work : s.ClientWork a .eng u) (he : s.engineLaw) (h : s.Guarded)
    (awaited : s.awaited .eng = some a) : u.Guarded := by
  have hc := he.config_of_awaited_eng awaited
  cases work with
  | attachWord w =>
    have ended : (s.readDone a w).Guarded := h.ended rfl rfl rfl rfl fun c hc' => nomatch hc.symm.trans hc'
    exact ended.attachWordRead w

theorem State.Takes.guarded (takes : s.Takes t) (he : s.engineLaw) (h : s.Guarded) (known : s.banksReadAsKnown t) : t.Guarded := by
  have holding {x : Held} {stage : HeldStage} (held : s.rqh.held = some x) (hs : x.stage = stage)
      (plain : ∀ c had old, stage ≠ .configureWrite c had old) : s.rqh.configuring = none :=
    Rqh.configuring_none_of_stage held (hs ▸ plain)
  cases takes with
  | nothing => exact h
  | powerOn => exact .of_cleared rfl rfl ⟨rfl, rfl⟩ (fun x => by cases x <;> rfl) rfl nofun
  | engineReset =>
    exact .of_cleared rfl rfl ⟨rfl, rfl⟩ (fun x => by cases x <;> rfl) rfl fun a ha => Bip.giveUp_disregard (b := s.bip) ha
  | detach engine =>
    exact .of_cleared rfl rfl ⟨rfl, rfl⟩ (fun x => by cases x <;> rfl) rfl fun a ha => Bip.giveUp_disregard (b := s.bip) ha
  | attach engine =>
    refine State.Guarded.settle (State.Guarded.issueAttachRead ?_ 0)
    exact h.of_frame rfl rfl rfl rfl rfl rfl rfl
  | run c engine config number =>
    have same : s.pse.SameStage { s.pse with timer := c.startedTimer } := ⟨rfl, rfl, rfl, rfl, rfl, fun _ => rfl⟩
    exact h.requests (.of_bip rfl) rfl rfl rfl same (fun hc => nomatch config.symm.trans hc) (fun _ => ⟨rfl, rfl⟩) fun _ => id
  | stop engine =>
    have same : s.pse.SameStage { s.pse with timer := none, pendingTrigger := false } := ⟨rfl, rfl, rfl, rfl, rfl, fun _ => rfl⟩
    exact h.requests (.of_bip rfl) rfl rfl rfl same (fun hc => (h.idle hc).2.symm) (fun _ => ⟨rfl, rfl⟩) fun _ => id
  | clear engine entry => exact h.of_frame rfl rfl rfl rfl rfl rfl rfl
  | wbase w engine =>
    obtain ⟨config, held, idle, waiting, waitEng, disregard⟩ := he.cleared engine
    exact .of_cleared config held idle waiting waitEng disregard
  | flags cause mask refusal => exact h.of_frame rfl rfl rfl rfl rfl rfl rfl
  | attend engine =>
    refine State.Guarded.settle (h.requests s.scanOccasion_issues.request (by simp) (by simp) (by simp) (.of_eq (by simp))
      (fun _ => by simp) (fun hne => ⟨s.scanOccasion_held, ?_⟩) fun new hnew => ?_)
    · obtain ⟨new, hnew⟩ := Option.ne_none_iff_exists'.1 hne
      obtain ⟨x, had, old, hx, -⟩ := Rqh.exists_of_configuring hnew
      unfold State.scanOccasion Rqh.busy
      rw [hx]
      rfl
    · exact (Rqh.configuring_congr s.scanOccasion_held).symm.trans hnew
  | trigger source =>
    have config : s.eng.config ≠ none := by
      rcases source with ht | ⟨-, hc⟩
      · exact fun hc => ht (h.idle hc).2
      · exact hc
    obtain ⟨c, hc⟩ := Option.ne_none_iff_exists'.1 config
    exact (h.trigger hc).settle
  | heldAgain x e held stage pass =>
    exact h.requests_plain (holding held stage nofun) (.of_bip rfl) rfl rfl rfl rfl nofun
  | applied x e held stage pass =>
    exact State.Guarded.settleTogether (h.requests_plain (holding held stage nofun) (State.applyNow_issues x e) (by simp) (by simp)
      (by simp) (by simp) (State.applyNow_records x e).configuring)
  | answered a o v awaited work =>
    have known' : s.banksReadAsKnown v := known.of_window (by simp)
    cases o with
    | eng => exact (work.guarded_eng he h awaited).settle
    | client x => exact (work.guarded he h awaited known').settle
  | failed a kind hin hmark =>
    refine State.Guarded.settle (State.Guarded.accessFailed ?_ (by simp [Bip.ended]) kind a)
    have awaited : s.awaited a.owner = some a := State.awaited_eq_some.2 ⟨hin, hmark, rfl⟩
    cases ho : a.owner with
    | eng =>
      have hc := he.config_of_awaited_eng (ho ▸ awaited)
      exact h.ended (by simp) (by simp) (by simp) (by simp) fun c hc' => nomatch hc.symm.trans hc'
    | client x => exact h.failDone (ho ▸ awaited)
  | disregarded a v hin hmark ended =>
    have quiet (c : Configuration) (hc : s.eng.config = some c) : v.publicationStands c :=
      nomatch hmark.symm.trans (h.stands c hc).2.1
    rcases ended with rfl | rfl
    · exact (h.ended (t := s.writeDone a) rfl rfl rfl rfl quiet).settle
    · exact (h.ended (by simp) (by simp) (by simp) (by simp) quiet).settle

end

/-- Settles O22: the bank chosen is the first of the candidates in the order of R124; the guard stands through every change of
the state, an access that ends leaving the publication word and the headers as the publication state says. -/
theorem workBankIsTheOldestCandidate : Obligations.WorkBankIsTheOldestCandidate := by
  refine ⟨fun p hold => ?_, fun s t hstep he h known => ?_, fun s h => h.publicationLaw⟩
  · obtain ⟨hmem, hfirst⟩ := p.chooseBank_spec hold
    obtain ⟨hpublished, hheld⟩ := Pse.mem_candidates.1 hmem
    exact ⟨hpublished, hheld, fun b hb hb' => hfirst b (Pse.mem_candidates.2 ⟨hb, hb'⟩)⟩
  · rcases step_takes hstep with rfl | ⟨rest, takes⟩
    · exact h
    · exact (takes.guarded he (State.engineLaw.guarded (s := { s with pending := rest }) he h) known).guard

end Sys2Proof.Machine
